-- ==== Sys2Proof/Word.lean ====
section
/-! DEFINITION. The value types of the block: bit, byte, tri-state value, and `val`, the number a sequence of bits
stands for (R9, R11 00_scope.md). -/

namespace Sys2Proof

/-- A symbol, chip, level or bit: a value in 0, 1, with `true` for 1 (R11, R91). -/
abbrev Bit := Bool

/-- A byte, 0..255 (R11). -/
abbrev Byte := BitVec 8

/-- A tri-state value, the three-constructor type that R11 and R93 ask for. -/
inductive Tri where
  /-- bit 0 -/
  | zero
  /-- bit 1 -/
  | one
  /-- the document's sentinel -1: a Manchester violation or an idle pair -/
  | invalid
deriving DecidableEq, Repr

/-- `val(q)` of R9: the sequence read as a number, first element most significant. -/
def val : List Bit → Nat
  | [] => 0
  | b :: q => b.toNat * 2 ^ q.length + val q

end Sys2Proof
end

