-- ==== Sys2Proof/Config.lean ====
section
/-! DEFINITION. The parameters of the block (R7 00_scope.md): the document's literals as constants, the two OPEN
parameters as the record `Params` that State holds, and the two fixed patterns (R94, R95 30_encoding.md). -/

namespace Sys2Proof

namespace Config

/-- `MTU`, in octets. -/
abbrev mtu : Nat := 170
/-- `MARGIN`, in octets. -/
abbrev margin : Nat := 40
/-- `CAP`, buffer capacity and search-window length in symbols: 8 × (MTU + MARGIN) = 1680. -/
abbrev cap : Nat := 1680
/-- `PRE_LEN`, symbols in the preamble pattern. -/
abbrev preLen : Nat := 32
/-- `SFD_LEN`, symbols in the start-delimiter pattern. -/
abbrev sfdLen : Nat := 16
/-- `SKIP_BITS`, decoded bits skipped at the head of a captured window. -/
abbrev skipBits : Nat := 8
/-- `HEADER_BITS`; a packet must be longer than this to be parsed. -/
abbrev headerBits : Nat := 88
/-- `CHK_SEED`. -/
def chkSeed : Byte := 0xFF#8
/-- `SHORT_MAX`, samples: a pulse with `elapsed <= 4` is bit 1. -/
abbrev shortMax : Nat := 4
/-- `RESYNC_MIN`, samples: `elapsed > 50` discards the accumulator. -/
abbrev resyncMin : Nat := 50
/-- `FRAME_BITS`, the doorbell frame's length. -/
abbrev frameBits : Nat := 13
/-- `WIN_BITS`, tri-state values in one decoded window: CAP / 2 = 840. -/
abbrev winBits : Nat := 840
/-- `PKT_MAX_BITS`, the longest packet a capture can yield: WIN_BITS - SKIP_BITS = 832. -/
abbrev pktMaxBits : Nat := 832
/-- `PAYLOAD_MAX`, bytes: the longest payload a ZWaveFrame can carry, floor(832/8) - 11 = 93. -/
abbrev payloadMax : Nat := 93

/-- `PREAMBLE`: 8 repetitions of `1,1,0,0` (R94). -/
def preamble : List Bit := (List.replicate 8 [true, true, false, false]).flatten

/-- `SFD`: `1,0` repeated 4 times, then `0,1` repeated 4 times (R95). -/
def sfd : List Bit :=
  (List.replicate 4 [true, false]).flatten ++ (List.replicate 4 [false, true]).flatten

end Config

/-- The two parameters that R7 leaves OPEN, "arguments of the model". State carries them; no operation changes them
(R32). -/
structure Params where
  /-- `SFD_ATTEMPT_LIMIT`, at least 1 (D6). -/
  sfdAttemptLimit : Nat
  /-- `INDEX_ORIGIN` (D3). -/
  indexOrigin : Nat
deriving DecidableEq, Repr

/-- The recommended limit 1680 and the default origin 0 of R7. DESIGN CHOICE, log entry 3: no statement rests on
these two numbers. -/
def Params.recommended : Params := { sfdAttemptLimit := 1680, indexOrigin := 0 }

end Sys2Proof
end

