-- ==== Sys2Proof/Syntax.lean ====
section
/-! DEFINITION. The record types (R38, R39 10_state.md), the encodings' formats and codes (30_encoding.md), and the
operations: `Instr`, one constructor for each row of spec/opcode_table.json (R105). -/

namespace Sys2Proof

/-- The two pipelines (R3). -/
inductive Lane where
  /-- pulse-width, doorbell -/
  | p
  /-- Manchester, Z-Wave -/
  | m
deriving DecidableEq, Repr

/-- DoorbellFrame (R38). -/
structure DoorbellFrame where
  buttonId : BitVec 8
  tone : BitVec 4
deriving DecidableEq, Repr

/-- The header fields and payload that the ZWPACKET layout gives (R99): all of a ZWaveFrame but the checksum. -/
structure ZWaveLayout where
  homeId : BitVec 32
  sourceId : BitVec 8
  frameControl : BitVec 16
  length : BitVec 8
  destinationId : BitVec 8
  commandClass : BitVec 8
  command : BitVec 8
  payload : List Byte
deriving DecidableEq, Repr

/-- ZWaveFrame, the ten fields in the document's order (R39). -/
structure ZWaveFrame where
  homeId : BitVec 32
  sourceId : BitVec 8
  frameControl : BitVec 16
  length : BitVec 8
  destinationId : BitVec 8
  commandClass : BitVec 8
  command : BitVec 8
  payload : List Byte
  crc : BitVec 8
  crcOk : Bool
deriving DecidableEq, Repr

/-- A ZWaveFrame without its checksum fields. -/
def ZWaveFrame.layout (f : ZWaveFrame) : ZWaveLayout :=
  { homeId := f.homeId, sourceId := f.sourceId, frameControl := f.frameControl, length := f.length,
    destinationId := f.destinationId, commandClass := f.commandClass, command := f.command, payload := f.payload }

/-- What an operation acts on, one constructor per row of spec/opcode_table.json. A row that the table calls a pure
function takes its operands here; a row whose pseudocode acts on the state takes what its pseudocode takes. -/
inductive Instr where
  -- top level, selected by the input word (R90)
  | rst
  | cancel
  | mzSym (s : Bit)
  | pwSym (s : Bit)
  | idle
  -- pseudo-operation (R264)
  | batch (lane : Lane) (symbols : List Bit)
  -- chip-pair codes (R92) and the function they are the cases of (R150)
  | manchInv0
  | manchZero
  | manchOne
  | manchInv1
  | manch (a b : Bit)
  -- pulse-width classes of a PW.SYM step (R97)
  | pwShort
  | pwLong
  | pwLongResync
  | pwRise
  | pwRiseResync
  | pwHold
  -- patterns and layouts (R93 to R99)
  | preamble
  | sfd
  | doorbell13 (acc : List Bit)
  | zwPacket (pkt : List Bit)
  | triState (code : BitVec 2)
  -- internal operations of lane P (R121 to R127)
  | pwEdge (index : Nat) (s : Bit)
  | pwResync (elapsed : Nat)
  | pwClassify (elapsed : Nat)
  | pwAppend (bit : Bit)
  | pwComplete
  | dbButton (acc : List Bit)
  | dbTone (acc : List Bit)
  -- internal operations of the Manchester decoder (R152, R153)
  | manchSeq (w : List Bit)
  | manchTerm (t : List Tri)
  -- internal operations of the buffer (R165 to R168)
  | bufPush (s : Bit)
  | bufEvict
  | bufRemove (k : Nat)
  | bufRead (n : Nat)
  -- internal operations of the frame synchronizer (R186 to R193)
  | syncStep
  | syncPre
  | syncSfd
  | syncBailout
  | frameCapture
  | pktExtract (t : List Tri) (e : Nat)
  -- field extractor and checksum (R215 to R224)
  | fxPack (pkt : List Bit)
  | fxFields (pkt : List Bit)
  | chkXor (seq : List Byte)
  | chkRange (len : BitVec 8) (n : Nat)
  | chkOk (bytes : List Byte) (len : BitVec 8) (crc : Byte)
  | zwBuild (pkt : List Bit)
  | chkFrame (frame : List Byte)
  -- output operations (R245, R246, R249)
  | emitDb (frame : DoorbellFrame)
  | emitZw (frame : ZWaveFrame)
  | emitFail (n : Nat)
deriving DecidableEq, Repr

/-- The formats of spec/opcode_table.json. -/
inductive Format where
  | inputWord
  | pseudo
  | chipPair
  | pwClass
  | pattern32
  | pattern16
  | doorbell13
  | zwPacket
  | tri2
  | internal
deriving DecidableEq, Repr

/-- The format the table gives an operation's row. -/
def Instr.format : Instr → Format
  | .rst | .cancel | .mzSym _ | .pwSym _ | .idle => .inputWord
  | .batch _ _ => .pseudo
  | .manchInv0 | .manchZero | .manchOne | .manchInv1 | .manch _ _ => .chipPair
  | .pwShort | .pwLong | .pwLongResync | .pwRise | .pwRiseResync | .pwHold => .pwClass
  | .preamble => .pattern32
  | .sfd => .pattern16
  | .doorbell13 _ => .doorbell13
  | .zwPacket _ => .zwPacket
  | .triState _ => .tri2
  | .pwEdge _ _ | .pwResync _ | .pwClassify _ | .pwAppend _ | .pwComplete | .dbButton _ | .dbTone _ => .internal
  | .manchSeq _ | .manchTerm _ => .internal
  | .bufPush _ | .bufEvict | .bufRemove _ | .bufRead _ => .internal
  | .syncStep | .syncPre | .syncSfd | .syncBailout | .frameCapture | .pktExtract _ _ => .internal
  | .fxPack _ | .fxFields _ | .chkXor _ | .chkRange _ _ | .chkOk _ _ _ | .zwBuild _ | .chkFrame _ => .internal
  | .emitDb _ | .emitZw _ | .emitFail _ => .internal

/-- An encoding the block recognises or is given: a bit pattern with its format (30_encoding.md). Sequences stand in
order of arrival; the numbers are as the tables write them. -/
inductive Code where
  /-- the 6-bit input word `iw[5:0]` (R90) -/
  | inputWord (iw : BitVec 6)
  /-- a batch: a sequence of input words (R264) -/
  | inputWords (ws : List (BitVec 6))
  /-- the chip-pair code `ab`, the earlier chip in bit 1 (R92) -/
  | chipPair (ab : BitVec 2)
  /-- 32 symbols, the first in bit 31 (R94) -/
  | pattern32 (w : BitVec 32)
  /-- 16 symbols, the first in bit 15 (R95) -/
  | pattern16 (w : BitVec 16)
  /-- an accumulator's bits, position 0 first (R98) -/
  | doorbell (acc : List Bit)
  /-- a packet's bits, offset 0 first (R99) -/
  | packet (pkt : List Bit)
  /-- the tri-state code `tri[1:0]` (R93) -/
  | tri2 (t : BitVec 2)
deriving DecidableEq, Repr

/-- The format of a code. -/
def Code.format : Code → Format
  | .inputWord _ => .inputWord
  | .inputWords _ => .pseudo
  | .chipPair _ => .chipPair
  | .pattern32 _ => .pattern32
  | .pattern16 _ => .pattern16
  | .doorbell _ => .doorbell13
  | .packet _ => .zwPacket
  | .tri2 _ => .tri2

/-- Why a code stands for no operation. -/
inductive DecodeError where
  /-- a 32-symbol pattern other than PREAMBLE (R96: exact equality) -/
  | notPreamble
  /-- a 16-symbol pattern other than SFD (R96) -/
  | notDelimiter
  /-- an accumulator that has not exactly 13 bits (R98) -/
  | notThirteenBits
  /-- a packet of 88 bits or fewer has no layout (R99, R103 item 8) -/
  | packetTooShort
  /-- a sequence of words that is not a batch of one lane's symbols as R106 writes them (R264; log entry 22) -/
  | notOneLane
deriving DecidableEq, Repr

end Sys2Proof
end

