-- ==== Sys2Proof/WellFormed.lean ====
section
/-! DEFINITION. Which operands an operation may be given: the ranges and lengths the rules state for them. An
operation without a stated restriction is always well formed. -/

namespace Sys2Proof

/-- Whether every value of `t[8 .. e-1]` exists and is `Zero` or `One` (R193). -/
def packetRangeValid (t : List Tri) (e : Nat) : Bool :=
  decide (e ≤ t.length) && ((t.drop Config.skipBits).take (e - Config.skipBits)).all (fun x => decide (x ≠ Tri.invalid))

/-- The operands are in the ranges the operation's rule states. -/
def Instr.wf : Instr → Bool
  | .rst | .cancel | .mzSym _ | .pwSym _ | .idle => true
  | .batch _ _ => true
  | .manchInv0 | .manchZero | .manchOne | .manchInv1 | .manch _ _ => true
  | .pwShort | .pwLong | .pwLongResync | .pwRise | .pwRiseResync | .pwHold => true
  | .preamble | .sfd => true
  -- exactly 13 bits (R98, R126, R127)
  | .doorbell13 acc | .dbButton acc | .dbTone acc => acc.length == Config.frameBits
  -- more than 88 bits (R99, R223)
  | .zwPacket pkt | .zwBuild pkt => decide (Config.headerBits < pkt.length)
  | .triState _ => true
  | .pwEdge _ _ | .pwResync _ | .pwClassify _ | .pwAppend _ | .pwComplete => true
  | .manchSeq _ | .manchTerm _ => true
  | .bufPush _ | .bufEvict => true
  -- at most the whole window (R167)
  | .bufRemove k => decide (k ≤ Config.cap)
  -- 16, 32 or 1680 (R168)
  | .bufRead n => n == Config.sfdLen || n == Config.preLen || n == Config.cap
  | .syncStep | .syncPre | .syncSfd | .syncBailout | .frameCapture => true
  -- 8 .. e-1 are positions of bits (R193)
  | .pktExtract t e => decide (Config.skipBits ≤ e) && packetRangeValid t e
  | .fxPack _ | .fxFields _ | .chkXor _ => true
  -- at least the 11 header bytes (R221)
  | .chkRange _ n => decide (11 ≤ n)
  | .chkOk _ _ _ => true
  -- at least one byte (R224)
  | .chkFrame frame => decide (1 ≤ frame.length)
  | .emitDb _ => true
  -- 0 to 93 payload bytes (R39, R104)
  | .emitZw frame => decide (frame.payload.length ≤ Config.payloadMax)
  -- 0..88 (R249)
  | .emitFail n => decide (n ≤ Config.headerBits)

end Sys2Proof
end

