-- ==== Sys2Proof/Decode.lean ====
section
/-! DEFINITION. The decoder of every encoding of 30_encoding.md, total, rejecting by name; then the encoder, from the
same tables. The input word's decoder gives the operations the word's step performs, one or two (R90). -/

namespace Sys2Proof

/-! ## The input word (R90) -/

/-- Whether a word agrees with a row's match value under the row's mask. -/
def wordHits (iw mask pattern : BitVec 6) : Bool := (iw &&& mask) == pattern

/-- The row RST: match 100000, mask 100000. -/
def hitsRst (iw : BitVec 6) : Bool := wordHits iw 0b100000#6 0b100000#6
/-- The row CANCEL: match 010000, mask 110000. -/
def hitsCancel (iw : BitVec 6) : Bool := wordHits iw 0b110000#6 0b010000#6
/-- The row MZ.SYM: match 001000, mask 111000. -/
def hitsMz (iw : BitVec 6) : Bool := wordHits iw 0b111000#6 0b001000#6
/-- The row PW.SYM: match 000010, mask 110010. -/
def hitsPw (iw : BitVec 6) : Bool := wordHits iw 0b110010#6 0b000010#6

/-- The symbol slots of a word that is neither a reset nor a cancel, lane P first (R260). -/
def decodeSlots (iw : BitVec 6) : List Instr :=
  (if hitsPw iw then [Instr.pwSym (iw.getLsbD 0)] else []) ++
    (if hitsMz iw then [Instr.mzSym (iw.getLsbD 2)] else [])

/-- The operations a step performs on an input word, in the priority order of R90: RST alone, else CANCEL alone, else
the symbols of the two slots, else IDLE. -/
def decodeInputWord (iw : BitVec 6) : List Instr :=
  if hitsRst iw then [Instr.rst]
  else if hitsCancel iw then [Instr.cancel]
  else if (decodeSlots iw).isEmpty then [Instr.idle]
  else decodeSlots iw

/-! ## The other formats -/

/-- The code table of R92. -/
def decodeChipPair (ab : BitVec 2) : Instr :=
  match ab.getLsbD 1, ab.getLsbD 0 with
  | false, false => .manchInv0
  | false, true => .manchZero
  | true, false => .manchOne
  | true, true => .manchInv1

/-- The class table of R97: `none` for an unchanged level, else the new level; and the elapsed samples. -/
def decodePwClass (edge : Option Bit) (elapsed : Nat) : Instr :=
  match edge with
  | none => .pwHold
  | some false =>
    if elapsed ≤ Config.shortMax then .pwShort
    else if elapsed ≤ Config.resyncMin then .pwLong
    else .pwLongResync
  | some true => if elapsed ≤ Config.resyncMin then .pwRise else .pwRiseResync

/-- The single input word of a symbol for a lane: `0b00001x` or `0b001x00` (R106). -/
def laneWord (lane : Lane) (s : Bit) : BitVec 6 :=
  match lane with
  | .p => if s then 0b000011#6 else 0b000010#6
  | .m => if s then 0b001100#6 else 0b001000#6

/-- The symbol of a word that is, bit for bit, the word R106 writes for a symbol of this lane. R90 decodes further words
to that symbol alone, those with the ignored bit of the other lane set (`0b000110` is PW.SYM(0)); that these are no
words of a batch is the model's choice, since R264 gives BATCH no code and R105 says only 'a sequence of input words'.
DESIGN CHOICE (log entry 22), safe: a step reads each word by R90 all the same. -/
def laneSymbol (lane : Lane) (iw : BitVec 6) : Option Bit :=
  if iw = laneWord lane false then some false
  else if iw = laneWord lane true then some true
  else none

/-- The symbols of a sequence of words, each of which `laneSymbol` reads for this lane (log entry 22). -/
def laneSymbols (lane : Lane) : List (BitVec 6) → Option (List Bit)
  | [] => some []
  | iw :: ws =>
    match laneSymbol lane iw, laneSymbols lane ws with
    | some s, some ss => some (s :: ss)
    | _, _ => none

/-- A batch read back from its words. Which sequences read as a BATCH the spec leaves open (R264, R105); the model takes
those of one lane's words as R106 writes them and rejects every other by name, `notOneLane`; the empty sequence names
no lane and is rejected too. DESIGN CHOICE (log entry 22), safe. -/
def decodeBatch (ws : List (BitVec 6)) : Except DecodeError Instr :=
  if ws.isEmpty then .error .notOneLane
  else
    match laneSymbols .p ws, laneSymbols .m ws with
    | some ss, _ => .ok (.batch .p ss)
    | none, some ss => .ok (.batch .m ss)
    | none, none => .error .notOneLane

/-- PREAMBLE as a 32-bit value, the first symbol in bit 31 (R94). -/
def preambleWord : BitVec 32 := 0xCCCCCCCC#32

/-- SFD as a 16-bit value, the first symbol in bit 15 (R95). -/
def sfdWord : BitVec 16 := 0xAA55#16

/-- What a code stands for: the operations it selects, or the name of what is wrong with it. -/
def decode : Code → Except DecodeError (List Instr)
  | .inputWord iw => .ok (decodeInputWord iw)
  | .inputWords ws => (decodeBatch ws).map (fun i => [i])
  | .chipPair ab => .ok [decodeChipPair ab]
  | .pattern32 w => if w = preambleWord then .ok [.preamble] else .error .notPreamble
  | .pattern16 w => if w = sfdWord then .ok [.sfd] else .error .notDelimiter
  | .doorbell acc => if acc.length = Config.frameBits then .ok [.doorbell13 acc] else .error .notThirteenBits
  | .packet pkt => if Config.headerBits < pkt.length then .ok [.zwPacket pkt] else .error .packetTooShort
  | .tri2 t => .ok [.triState t]

/-! ## The encoder -/

/-- The code of a chip pair, the earlier chip in bit 1 (R92). -/
def chipPairCode (a b : Bit) : BitVec 2 := BitVec.ofNat 2 (val [a, b])

/-- The code of an operation, where its row has one. The pulse-width classes are ranges of a duration and the
internal operations have no bit pattern (opcode_table.json: "encoding": "none"); an empty batch is no word at all
(R264). Ignored bits of an input word are written 0 (R103 item 3). -/
def encode : Instr → Option Code
  | .rst => some (.inputWord 0b100000#6)
  | .cancel => some (.inputWord 0b010000#6)
  | .mzSym s => some (.inputWord (laneWord .m s))
  | .pwSym s => some (.inputWord (laneWord .p s))
  | .idle => some (.inputWord 0b000000#6)
  | .batch lane ss => if ss.isEmpty then none else some (.inputWords (ss.map (laneWord lane)))
  | .manchInv0 => some (.chipPair 0b00#2)
  | .manchZero => some (.chipPair 0b01#2)
  | .manchOne => some (.chipPair 0b10#2)
  | .manchInv1 => some (.chipPair 0b11#2)
  | .manch a b => some (.chipPair (chipPairCode a b))
  | .pwShort | .pwLong | .pwLongResync | .pwRise | .pwRiseResync | .pwHold => none
  | .preamble => some (.pattern32 preambleWord)
  | .sfd => some (.pattern16 sfdWord)
  | .doorbell13 acc => some (.doorbell acc)
  | .zwPacket pkt => some (.packet pkt)
  | .triState t => some (.tri2 t)
  | .pwEdge _ _ | .pwResync _ | .pwClassify _ | .pwAppend _ | .pwComplete | .dbButton _ | .dbTone _ => none
  | .manchSeq _ | .manchTerm _ => none
  | .bufPush _ | .bufEvict | .bufRemove _ | .bufRead _ => none
  | .syncStep | .syncPre | .syncSfd | .syncBailout | .frameCapture | .pktExtract _ _ => none
  | .fxPack _ | .fxFields _ | .chkXor _ | .chkRange _ _ | .chkOk _ _ _ | .zwBuild _ | .chkFrame _ => none
  | .emitDb _ | .emitZw _ | .emitFail _ => none

/-! ## Numbers as spec/opcode_table.json gives them -/

/-- The `n` low bits of a number, the most significant first: the table writes a sequence with its first element
leftmost. -/
def bitsOf (n w : Nat) : List Bit := (List.range n).map (fun k => w.testBit (n - 1 - k))

/-- The code that a table row's number is: the format is told by the number of bits. A 6-bit input word may come in a
whole byte whose two high bits are 0. A number of 8 bits is read as an input word, so a chip pair is read as one only
when given as 2 bits (log entry 9). -/
def codeOf (nbits w : Nat) : Option Code :=
  if nbits = 2 then some (.chipPair (BitVec.ofNat 2 w))
  else if nbits = 6 ∨ nbits = 8 then (if w < 64 then some (.inputWord (BitVec.ofNat 6 w)) else none)
  else if nbits = 13 then some (.doorbell (bitsOf 13 w))
  else if nbits = 16 then some (.pattern16 (BitVec.ofNat 16 w))
  else if nbits = 32 then some (.pattern32 (BitVec.ofNat 32 w))
  else if Config.headerBits < nbits then some (.packet (bitsOf nbits w))
  else none

/-- The instruction the decoder reads from a table row's bits; of a word that carries both lanes' symbols, the first
operation its step performs (R260). -/
def decodeTableWord (nbits w : Nat) : Option Instr :=
  match codeOf nbits w with
  | none => none
  | some c =>
    match decode c with
    | .ok (i :: _) => some i
    | _ => none

end Sys2Proof
end

