-- ==== Sys2Proof/Machine/State.lean ====
section
/-! DEFINITION. The machine's state: the eight elements of R20 10_state.md, the two OPEN parameters of R7, and the
model's own fields (the input words to come and the record of the step just made); the reasons a step can stop; the
state after reset (R306 70_reset_and_hazards.md). -/

namespace Sys2Proof

namespace Machine

/-- The frame synchronizer's states (R26). -/
inductive SyncState where
  | searchingPreamble
  | searchingDelimiter
deriving DecidableEq, Repr

/-- The two patterns a compare can miss (R275: "which pattern"). -/
inductive Pattern where
  | preamble
  | delimiter
deriving DecidableEq, Repr

/-- The conditions of R275 that happen inside the block, each with its info. IoTransient "has no representation in the
model" (R280). -/
inductive Condition where
  /-- code 1, lane P: an edge with `elapsed > 50` (R276) -/
  | syncLoss (elapsed : Nat)
  /-- code 2, lane M: a compare that failed on a full buffer (R277) -/
  | patternMiss (p : Pattern)
  /-- code 3, lane M: a captured packet of `n <= 88` bits (R278) -/
  | structuralShort (n : Nat)
  /-- code 4, lane M: the name of the outcome `crc_ok = false`, with the computed `crc` (R279, R222) -/
  | checksumMismatch (crc : Byte)
deriving DecidableEq, Repr

/-- `Outputs` of a step: the triple of R8 and R260, each part present only in the step that produced it. -/
structure Outputs where
  doorbell : Option DoorbellFrame
  zwave : Option ZWaveFrame
  fail : Option Nat
deriving DecidableEq, Repr

/-- `{ doorbell = none, zwave = none, fail = none }` (R260). -/
def Outputs.none : Outputs := { doorbell := Option.none, zwave := Option.none, fail := Option.none }

/-- The value a pure operation returns when `exec` runs it by itself. -/
inductive Value where
  | bit (b : Bit)
  | nat (n : Nat)
  | bool (b : Bool)
  | byte (b : Byte)
  | nibble (v : BitVec 4)
  | tri (t : Tri)
  | tris (t : List Tri)
  | bits (q : List Bit)
  | bytes (q : List Byte)
  /-- a doorbell frame's fields -/
  | doorbell (f : DoorbellFrame)
  /-- a packet's fields by the layout -/
  | layout (l : ZWaveLayout)
  /-- the result of FX.FIELDS: a frame, or `NoFields` as none (R216) -/
  | fields (r : Option ZWaveFrame)
  /-- the pair of CHK.FRAME (R224) -/
  | checked (crc : Byte) (ok : Bool)
  /-- a batch's outputs, one for each step, and the number of symbols consumed (R264) -/
  | batch (outs : List Outputs) (consumed : Nat)
deriving DecidableEq, Repr

/-- The memory: the sequence of symbols present, head first. Address `a` exists exactly when it is below the length
(R60). -/
abbrev Memory := List Bit

/-- The form memory keeps: never more symbols than the capacity (R169). A sequence lists each existing address once,
so equal memories are equal data. -/
abbrev Memory.wf (mem : Memory) : Prop := mem.length ≤ Config.cap

structure State where
  /-- `pw_last_level` (R21) -/
  pwLastLevel : Bit
  /-- `pw_last_transition_index` (R22) -/
  pwLastTransitionIndex : Nat
  /-- `pw_index` (R23) -/
  pwIndex : Nat
  /-- `pw_acc` (R24) -/
  pwAcc : List Bit
  /-- `buf` (R25) -/
  buf : Memory
  /-- `sync_state` (R26) -/
  syncState : SyncState
  /-- `sfd_attempts` (R27) -/
  sfdAttempts : Nat
  /-- `halted` (R28) -/
  halted : Bool
  /-- the OPEN parameters (R7), never written -/
  params : Params
  /-- the model's own: the input words still to be presented, the next one first (R90; log entry 1) -/
  inputs : List (BitVec 6)
  /-- the model's own: the `Outputs` of the step just made (R8; log entry 2) -/
  out : Outputs
  /-- the model's own: lane P's conditions raised in the step just made, in order (R10; log entry 2) -/
  condsP : List Condition
  /-- the model's own: lane M's conditions raised in the step just made, in order (R10; log entry 2) -/
  condsM : List Condition
  /-- the model's own: the value a pure operation run by itself returned; none between steps (R35; log entry 2) -/
  result : Option Value
deriving DecidableEq, Repr

/-- Why an operation stops with a fault. The block's own steps never do (R103, R260): both reasons concern an internal
operation that `exec` runs by itself where its rule does not define it. Both are safe: the block reaches neither. -/
inductive Fault where
  /-- raised by `MemRead(0, n)` with `n` above the length: an address that does not exist (R61); log entry 5. Safe. -/
  | memReadOutside (n len : Nat)
  /-- raised by an operation whose operand lies outside the domain its rule states; log entry 6. Safe. -/
  | operandOutside (mnemonic : String)
deriving DecidableEq, Repr

/-- Why an operation is refused: never, since every operation is modelled. -/
inductive Refusal where
  /-- raised by `exec`'s arm of an operation that has no meaning yet; no arm does. Safe. -/
  | notModelled (mnemonic : String)
deriving DecidableEq, Repr

/-- The reset state for given parameters: every element as R306 says. -/
def State.resetWith (params : Params) : State :=
  { pwLastLevel := false
    pwLastTransitionIndex := 0
    pwIndex := params.indexOrigin
    pwAcc := []
    buf := []
    syncState := .searchingPreamble
    sfdAttempts := 0
    halted := false
    params := params
    inputs := []
    out := Outputs.none
    condsP := []
    condsM := []
    result := none }

/-- The machine right after reset (R305, R306), with the recommended parameters (log entry 3). -/
def State.reset : State := State.resetWith Params.recommended

end Machine

end Sys2Proof
end

