-- ==== Sys2Proof/Machine/Ops.lean ====
section
/-! DEFINITION. The named operations the meanings are built from: chaining of outcomes, the memory primitives
(20_memory.md), the record of a step (outputs and conditions), and reset. -/

namespace Sys2Proof

namespace Machine

/-! ## Outcomes -/

/-- Do `k` on the next state; a stop stays the stop it is. -/
def andThen (r : Host.Outcome State Fault Refusal) (k : State → Host.Outcome State Fault Refusal) :
    Host.Outcome State Fault Refusal :=
  match r with
  | .next s => k s
  | .fault f => .fault f
  | .refused f => .refused f

/-- The state with the value a pure operation returned. -/
def State.returning (s : State) (v : Value) : State := { s with result := some v }

/-! ## Memory (R60 to R63) -/

/-- One symbol of memory, `none` where the address does not exist (R60). -/
def memAt (mem : Memory) (a : Nat) : Option Bit := mem[a]?

/-- `MemRead(addr, n)`: the symbols at `addr .. addr+n-1`, "defined only when `addr + n <= len(S.buf)`" (R61). -/
def memRead (mem : Memory) (addr n : Nat) : Option (List Bit) :=
  if addr + n ≤ mem.length then some ((mem.drop addr).take n) else none

/-- `MemWrite(len(S.buf), 1, s)`, the only form: append at the tail (R62). -/
def memAppend (mem : Memory) (b : Bit) : Memory := mem ++ [b]

/-- `S.buf <- S.buf[k:]`, removal at the head (R63). -/
def memDropHead (mem : Memory) (k : Nat) : Memory := mem.drop k

/-- Go on with the leading window `MemRead(0, n)` (R168); an address past the tail is a fault. -/
def withWindow (n : Nat) (s : State) (k : List Bit → Host.Outcome State Fault Refusal) :
    Host.Outcome State Fault Refusal :=
  match memRead s.buf 0 n with
  | some w => k w
  | none => .fault (.memReadOutside n s.buf.length)

/-! ## Conditions: the block's only exceptions (R10, R275, R284) -/

/-- The lane a condition belongs to (R275). -/
def conditionLane : Condition → Lane
  | .syncLoss _ => .p
  | .patternMiss _ => .m
  | .structuralShort _ => .m
  | .checksumMismatch _ => .m

/-- A condition's code number (R275), "on no port". -/
def conditionCode : Condition → Nat
  | .syncLoss _ => 1
  | .patternMiss _ => 2
  | .structuralShort _ => 3
  | .checksumMismatch _ => 4

/-- `raise X(info)`: it "records that one of the conditions occurred in this step; it does NOT transfer control and
does not stop the step" (R10). There is no entry, nothing is saved and there is no return (R284, R285). -/
def raise (c : Condition) (s : State) : State :=
  match conditionLane c with
  | .p => { s with condsP := s.condsP ++ [c] }
  | .m => { s with condsM := s.condsM ++ [c] }

/-- The conditions of lane M in the step just made, with ChecksumMismatch: it raises nothing (R222) and is seen in the
emitted frame (R279). -/
def State.conditionsM (s : State) : List Condition :=
  s.condsM ++
    (match s.out.zwave with
     | some f => if f.crcOk then [] else [.checksumMismatch f.crc]
     | none => [])

/-! ## Outputs (45_frame_emitter.md) -/

/-- `Outputs.doorbell` becomes the frame (R245). -/
def emitDoorbell (f : DoorbellFrame) (s : State) : State := { s with out := { s.out with doorbell := some f } }

/-- `Outputs.zwave` becomes the frame (R246). -/
def emitZWave (f : ZWaveFrame) (s : State) : State := { s with out := { s.out with zwave := some f } }

/-- `Outputs.fail` becomes `n` (R249). -/
def emitFailure (n : Nat) (s : State) : State := { s with out := { s.out with fail := some n } }

/-! ## Steps -/

/-- A step begins with empty `Outputs` (R260) and nothing recorded or returned (R35): nothing of the previous step's
record is left. -/
def beginStep (s : State) : State :=
  { s with out := Outputs.none, condsP := [], condsM := [], result := none }

/-- Every state element takes its reset value (R261, R306); the parameters stay (R32), and so do the input words that
the outside has still to present. Nothing is emitted. -/
def resetElements (s : State) : State :=
  { State.resetWith s.params with inputs := s.inputs }

end Machine

end Sys2Proof
end

