-- ==== Sys2Proof/Machine/Operands.lean ====
section
/-! DEFINITION. The operand forms: how a field is taken from a sequence of bits or bytes (R9, R100, R101), least
significant first in lane P and most significant first in lane M. -/

namespace Sys2Proof

namespace Machine

/-- `q[lo .. hi]`, both ends included, empty when `hi < lo` (R9). -/
def slice {α : Type} (q : List α) (lo hi : Nat) : List α := (q.drop lo).take (hi + 1 - lo)

/-- The field at packet offsets `lo .. hi`, most significant bit first (R101). -/
def field (width : Nat) (pkt : List Bit) (lo hi : Nat) : BitVec width := BitVec.ofNat width (val (slice pkt lo hi))

/-- A byte from its eight bits, most significant first (R215). -/
def packByte (b7 b6 b5 b4 b3 b2 b1 b0 : Bit) : Byte :=
  BitVec.ofNat 8 (b7.toNat * 128 + b6.toNat * 64 + b5.toNat * 32 + b4.toNat * 16 +
    b3.toNat * 8 + b2.toNat * 4 + b1.toNat * 2 + b0.toNat)

/-- Group bits into bytes, most significant bit first; a last group of fewer than 8 bits forms no byte (R215). -/
def packBytes : List Bit → List Byte
  | b7 :: b6 :: b5 :: b4 :: b3 :: b2 :: b1 :: b0 :: rest => packByte b7 b6 b5 b4 b3 b2 b1 b0 :: packBytes rest
  | _ => []

/-- The byte at an index, of a sequence that has one there. Every use stands under a guard that there is one. -/
def byteAt (bytes : List Byte) (j : Nat) : Byte := bytes.getD j 0#8

/-- One step of a reconstruction register of width `n`: `r <- (r >> 1) | ((bit & 1) << (n-1))` (R11 item 4). -/
def shiftIn (n : Nat) (r : BitVec n) (b : Bit) : BitVec n := (r >>> 1) ||| (BitVec.ofNat n b.toNat <<< (n - 1))

/-- The reconstruction loop over the bits at positions `lo .. hi`, ascending, from a register that starts at 0
(R126, R127, D18). -/
def shiftInAll (n : Nat) (acc : List Bit) (lo hi : Nat) : BitVec n :=
  (slice acc lo hi).foldl (shiftIn n) 0#n

end Machine

end Sys2Proof
end

