-- ==== Sys2Proof/Machine/Flags.lean ====
section
/-! DEFINITION. The block's two flag-like bits (R31): `halted`, state, which the symbol operations read; and `crc_ok`,
a field of each emitted ZWaveFrame, computed afresh for each. No operation sets a flag as a side effect. -/

namespace Sys2Proof

namespace Machine

/-- "While it is 1 no symbol is accepted and nothing is emitted" (R28, R266): a symbol operation does nothing while
halted. -/
def unlessHalted (s : State) (k : State → Host.Outcome State Fault Refusal) : Host.Outcome State Fault Refusal :=
  if s.halted then .next s else k s

/-- `S.halted <- 1` (R262). -/
def setHalted (s : State) : State := { s with halted := true }

/-- `crc_ok`: the transmitted checksum byte `B[L-1]` is among the bytes received and equals `crc` (R222). -/
def crcOkFlag (bytes : List Byte) (len : BitVec 8) (crc : Byte) : Bool :=
  if 1 ≤ len.toNat ∧ len.toNat ≤ bytes.length then decide (crc = byteAt bytes (len.toNat - 1)) else false

end Machine

end Sys2Proof
end

