-- ==== Sys2Proof/Machine/Emitter.lean ====
section
/-! DEFINITION. The output operations EMIT.DB, EMIT.ZW, EMIT.FAIL (45_frame_emitter.md), and the ports of R104 as a
view of `Outputs`: a field whose valid bit is 0 has no value. -/

namespace Sys2Proof

namespace Machine

/-! ## Meanings -/

/-- EMIT.DB(frame) (R245). -/
def execEmitDb (f : DoorbellFrame) (s : State) : Host.Outcome State Fault Refusal := .next (emitDoorbell f s)

/-- EMIT.ZW(frame) (R246): handed over whatever `crc_ok` is. -/
def execEmitZw (f : ZWaveFrame) (s : State) : Host.Outcome State Fault Refusal := .next (emitZWave f s)

/-- EMIT.FAIL(n) (R249). -/
def execEmitFail (n : Nat) (s : State) : Host.Outcome State Fault Refusal := .next (emitFailure n s)

/-! ## Ports (R104) -/

/-- `db_valid` -/
def portDbValid (o : Outputs) : Bool := o.doorbell.isSome
/-- `db_button_id[7:0]` -/
def portDbButtonId (o : Outputs) : Option (BitVec 8) := o.doorbell.map DoorbellFrame.buttonId
/-- `db_tone[3:0]` -/
def portDbTone (o : Outputs) : Option (BitVec 4) := o.doorbell.map DoorbellFrame.tone
/-- `zw_valid` -/
def portZwValid (o : Outputs) : Bool := o.zwave.isSome
/-- `zw_home_id[31:0]` -/
def portZwHomeId (o : Outputs) : Option (BitVec 32) := o.zwave.map ZWaveFrame.homeId
/-- `zw_source_id[7:0]` -/
def portZwSourceId (o : Outputs) : Option (BitVec 8) := o.zwave.map ZWaveFrame.sourceId
/-- `zw_frame_control[15:0]` -/
def portZwFrameControl (o : Outputs) : Option (BitVec 16) := o.zwave.map ZWaveFrame.frameControl
/-- `zw_length[7:0]` -/
def portZwLength (o : Outputs) : Option (BitVec 8) := o.zwave.map ZWaveFrame.length
/-- `zw_destination_id[7:0]` -/
def portZwDestinationId (o : Outputs) : Option (BitVec 8) := o.zwave.map ZWaveFrame.destinationId
/-- `zw_command_class[7:0]` -/
def portZwCommandClass (o : Outputs) : Option (BitVec 8) := o.zwave.map ZWaveFrame.commandClass
/-- `zw_command[7:0]` -/
def portZwCommand (o : Outputs) : Option (BitVec 8) := o.zwave.map ZWaveFrame.command
/-- `zw_payload_len[6:0]`, 0..93 -/
def portZwPayloadLen (o : Outputs) : Option (BitVec 7) := o.zwave.map (fun f => BitVec.ofNat 7 f.payload.length)
/-- `zw_payload[i][7:0]`, meaningful for `i < zw_payload_len` -/
def portZwPayload (o : Outputs) (i : Nat) : Option Byte := o.zwave.bind (fun f => f.payload[i]?)
/-- `zw_crc[7:0]` -/
def portZwCrc (o : Outputs) : Option (BitVec 8) := o.zwave.map ZWaveFrame.crc
/-- `zw_crc_ok` -/
def portZwCrcOk (o : Outputs) : Option Bool := o.zwave.map ZWaveFrame.crcOk
/-- `zw_fail_valid` -/
def portZwFailValid (o : Outputs) : Bool := o.fail.isSome
/-- `zw_fail_bits[6:0]`, 0..88 -/
def portZwFailBits (o : Outputs) : Option (BitVec 7) := o.fail.map (fun n => BitVec.ofNat 7 n)

end Machine

end Sys2Proof
end

