-- ==== Sys2Proof/Machine/Buffer.lean ====
section
/-! DEFINITION. The sliding symbol buffer (42_symbol_buffer.md): BUF.PUSH, BUF.EVICT, BUF.REMOVE, BUF.READ. -/

namespace Sys2Proof

namespace Machine

/-! ## Shared operations -/

/-- BUF.EVICT (R166): remove the head symbol. -/
def evictHead (s : State) : State := { s with buf := memDropHead s.buf 1 }

/-- BUF.PUSH(s) (R165): make room first if the buffer is full, then append at the tail. -/
def pushSymbol (b : Bit) (s : State) : State :=
  let s1 := if s.buf.length = Config.cap then evictHead s else s
  { s1 with buf := memAppend s1.buf b }

/-- BUF.REMOVE(k) (R167): remove the first `k` symbols. -/
def removeHead (k : Nat) (s : State) : State := { s with buf := memDropHead s.buf k }

/-! ## Meanings -/

/-- BUF.PUSH(s) (R165): "a push never fails and never blocks". -/
def execBufPush (b : Bit) (s : State) : Host.Outcome State Fault Refusal := .next (pushSymbol b s)

/-- BUF.EVICT (R166). -/
def execBufEvict (s : State) : Host.Outcome State Fault Refusal := .next (evictHead s)

/-- BUF.REMOVE(k) (R167). -/
def execBufRemove (k : Nat) (s : State) : Host.Outcome State Fault Refusal := .next (removeHead k s)

/-- BUF.READ(n) (R168): the leading window, which changes nothing. -/
def execBufRead (n : Nat) (s : State) : Host.Outcome State Fault Refusal :=
  withWindow n s (fun w => .next (s.returning (.bits w)))

end Machine

end Sys2Proof
end

