-- ==== Sys2Proof/Machine/Checksum.lean ====
section
/-! DEFINITION. The checksum validator (44_field_extractor_checksum.md section 2): CHK.XOR, CHK.RANGE, CHK.OK,
CHK.FRAME. All are pure. -/

namespace Sys2Proof

namespace Machine

/-! ## Shared operations -/

/-- CHK.XOR(seq) (R220): bytewise XOR from seed 0xFF. -/
def xorSum (seq : List Byte) : Byte := seq.foldl (fun c b => c ^^^ b) Config.chkSeed

/-- CHK.RANGE(L, N) (R221): how many leading bytes the checksum covers. -/
def checkRange (len : BitVec 8) (n : Nat) : Nat := if len.toNat = 0 then 0 else min (len.toNat - 1) n

/-- CHK.FRAME(F) (R224): the checksum of all bytes but the last, and whether the last equals it. -/
def checkFrame (frame : List Byte) : Byte × Bool :=
  (xorSum frame.dropLast, decide (xorSum frame.dropLast = byteAt frame (frame.length - 1)))

/-! ## Meanings -/

/-- CHK.XOR(seq) (R220). -/
def execChkXor (seq : List Byte) (s : State) : Host.Outcome State Fault Refusal :=
  .next (s.returning (.byte (xorSum seq)))

/-- CHK.RANGE(L, N) (R221). -/
def execChkRange (len : BitVec 8) (n : Nat) (s : State) : Host.Outcome State Fault Refusal :=
  .next (s.returning (.nat (checkRange len n)))

/-- CHK.OK(B, L, crc) (R222). A false result raises nothing (log entry 12). -/
def execChkOk (bytes : List Byte) (len : BitVec 8) (crc : Byte) (s : State) : Host.Outcome State Fault Refusal :=
  .next (s.returning (.bool (crcOkFlag bytes len crc)))

/-- CHK.FRAME(F) (R224), for a sequence "of length at least 1". -/
def execChkFrame (frame : List Byte) (s : State) : Host.Outcome State Fault Refusal :=
  if 1 ≤ frame.length then .next (s.returning (.checked (checkFrame frame).1 (checkFrame frame).2))
  else .fault (.operandOutside "CHK.FRAME")

end Machine

end Sys2Proof
end

