-- ==== Sys2Proof/Machine/Manchester.lean ====
section
/-! DEFINITION. The Manchester decoder (41_manchester_decoder.md): MANCH and its four cases, MANCH.SEQ, MANCH.TERM,
and the tri-state code of R93. All are pure: they read and write no state element. -/

namespace Sys2Proof

namespace Machine

/-! ## Shared operations -/

/-- MANCH(a, b) (R150): a stateless function of the two chips (R151). -/
def manchPair (a b : Bit) : Tri :=
  if a = false ∧ b = true then .zero
  else if a = true ∧ b = false then .one
  else .invalid

/-- MANCH.SEQ(w) (R152): pairs from the head, an unpaired last chip ignored. -/
def manchPairs : List Bit → List Tri
  | a :: b :: rest => manchPair a b :: manchPairs rest
  | _ => []

/-- MANCH.TERM(t) (R153): the least index of an Invalid, or the length when there is none. -/
def terminator : List Tri → Nat
  | [] => 0
  | .invalid :: _ => 0
  | _ :: t => terminator t + 1

/-- The bit a tri-state value is, none for Invalid (R193). -/
def triBit : Tri → Option Bit
  | .zero => some false
  | .one => some true
  | .invalid => none

/-- The 2-bit code of a tri-state value (R93). -/
def triCode : Tri → BitVec 2
  | .zero => 0b00#2
  | .one => 0b01#2
  | .invalid => 0b10#2

/-- The tri-state value a consumer reads from a code; 11 "is never produced by the block and a consumer must treat it
as Invalid" (R93; log entry 15). -/
def triOfCode (code : BitVec 2) : Tri :=
  if code = 0b00#2 then .zero else if code = 0b01#2 then .one else .invalid

/-! ## Meanings -/

/-- MANCH(a, b) (R150). -/
def execManch (a b : Bit) (s : State) : Host.Outcome State Fault Refusal := .next (s.returning (.tri (manchPair a b)))

/-- MANCH.INV0: the pair 00 (R92). -/
def execManchInv0 (s : State) : Host.Outcome State Fault Refusal := .next (s.returning (.tri (manchPair false false)))

/-- MANCH.ZERO: the pair 01 (R92). -/
def execManchZero (s : State) : Host.Outcome State Fault Refusal := .next (s.returning (.tri (manchPair false true)))

/-- MANCH.ONE: the pair 10 (R92). -/
def execManchOne (s : State) : Host.Outcome State Fault Refusal := .next (s.returning (.tri (manchPair true false)))

/-- MANCH.INV1: the pair 11 (R92). -/
def execManchInv1 (s : State) : Host.Outcome State Fault Refusal := .next (s.returning (.tri (manchPair true true)))

/-- MANCH.SEQ(w) (R152). -/
def execManchSeq (w : List Bit) (s : State) : Host.Outcome State Fault Refusal :=
  .next (s.returning (.tris (manchPairs w)))

/-- MANCH.TERM(t) (R153). -/
def execManchTerm (t : List Tri) (s : State) : Host.Outcome State Fault Refusal :=
  .next (s.returning (.nat (terminator t)))

/-- TRISTATE: the value a consumer reads from a 2-bit code (R93). -/
def execTriState (code : BitVec 2) (s : State) : Host.Outcome State Fault Refusal :=
  .next (s.returning (.tri (triOfCode code)))

end Machine

end Sys2Proof
end

