-- ==== Sys2Proof/Machine/Extract.lean ====
section
/-! DEFINITION. The field extractor (44_field_extractor_checksum.md section 1): FX.PACK, FX.FIELDS, ZW.BUILD, the
packet layout ZWPACKET (R99), and the cutting of the packet from a decoded window, PKT.EXTRACT (R193). All are pure. -/

namespace Sys2Proof

namespace Machine

/-! ## Shared operations -/

/-- PKT.EXTRACT(t, e) (R193): the bits `t[8 .. e-1]`. Where the rule defines it none of them is Invalid. -/
def packetOf (t : List Tri) (e : Nat) : List Bit :=
  ((t.drop Config.skipBits).take (e - Config.skipBits)).filterMap triBit

/-- ZW.BUILD(pkt) (R223), for a packet of more than 88 bits, which has at least 11 bytes. -/
def buildFrame (pkt : List Bit) : ZWaveFrame :=
  let bytes := packBytes pkt
  let len := byteAt bytes 7
  let crc := xorSum (bytes.take (checkRange len bytes.length))
  { homeId := BitVec.ofNat 32 ((byteAt bytes 0).toNat * 2 ^ 24 + (byteAt bytes 1).toNat * 2 ^ 16 +
      (byteAt bytes 2).toNat * 2 ^ 8 + (byteAt bytes 3).toNat)
    sourceId := byteAt bytes 4
    frameControl := BitVec.ofNat 16 ((byteAt bytes 5).toNat * 256 + (byteAt bytes 6).toNat)
    length := len
    destinationId := byteAt bytes 8
    commandClass := byteAt bytes 9
    command := byteAt bytes 10
    payload := bytes.drop 11
    crc := crc
    crcOk := crcOkFlag bytes len crc }

/-- FX.FIELDS(pkt) (R216): a frame when there are more than 88 bits, else `NoFields`. -/
def fieldsOf (pkt : List Bit) : Option ZWaveFrame :=
  if Config.headerBits < pkt.length then some (buildFrame pkt) else none

/-- The layout ZWPACKET (R99): each header field the most-significant-first value of its bit offsets (R101), the
payload the bytes of the bits from offset 88 on. -/
def layoutOf (pkt : List Bit) : ZWaveLayout :=
  { homeId := field 32 pkt 0 31
    sourceId := field 8 pkt 32 39
    frameControl := field 16 pkt 40 55
    length := field 8 pkt 56 63
    destinationId := field 8 pkt 64 71
    commandClass := field 8 pkt 72 79
    command := field 8 pkt 80 87
    payload := packBytes (pkt.drop 88) }

/-! ## Meanings -/

/-- PKT.EXTRACT(t, e) (R193). Its domain: the positions 8 .. e-1 exist and hold no Invalid. -/
def execPktExtract (t : List Tri) (e : Nat) (s : State) : Host.Outcome State Fault Refusal :=
  if packetRangeValid t e then .next (s.returning (.bits (packetOf t e))) else .fault (.operandOutside "PKT.EXTRACT")

/-- FX.PACK(pkt) (R215). -/
def execFxPack (pkt : List Bit) (s : State) : Host.Outcome State Fault Refusal :=
  .next (s.returning (.bytes (packBytes pkt)))

/-- FX.FIELDS(pkt) (R216, R219). -/
def execFxFields (pkt : List Bit) (s : State) : Host.Outcome State Fault Refusal :=
  .next (s.returning (.fields (fieldsOf pkt)))

/-- ZW.BUILD(pkt) (R223): "construct the ZWaveFrame of a packet with n > 88". -/
def execZwBuild (pkt : List Bit) (s : State) : Host.Outcome State Fault Refusal :=
  if Config.headerBits < pkt.length then .next (s.returning (.fields (some (buildFrame pkt))))
  else .fault (.operandOutside "ZW.BUILD")

/-- ZWPACKET (R99): the fields of a packet by the layout; a packet of 88 bits or fewer has none (R103 item 8). -/
def execZwPacket (pkt : List Bit) (s : State) : Host.Outcome State Fault Refusal :=
  if Config.headerBits < pkt.length then .next (s.returning (.layout (layoutOf pkt)))
  else .next (s.returning (.fields none))

end Machine

end Sys2Proof
end

