-- ==== Sys2Proof/Machine/Synchronizer.lean ====
section
/-! DEFINITION. The frame synchronizer of lane M (43_frame_synchronizer.md): MZ.SYM, SYNC.STEP, SYNC.PRE, SYNC.SFD,
SYNC.BAILOUT, FRAME.CAPTURE, and the compares with the two patterns (R94 to R96). -/

namespace Sys2Proof

namespace Machine

/-! ## Shared operations -/

/-- Enter a synchronizer state with a cleared attempt counter (R27: "set to 0 on every transition"). -/
def enterSync (st : SyncState) (s : State) : State := { s with syncState := st, sfdAttempts := 0 }

/-- SYNC.BAILOUT (R191). -/
def bailout (s : State) : State := enterSync .searchingPreamble s

/-- SYNC.PRE (R187). A match evicts nothing. -/
def searchPreamble (s : State) : Host.Outcome State Fault Refusal :=
  withWindow Config.preLen s (fun w =>
    if w = Config.preamble then .next (enterSync .searchingDelimiter s)
    else .next (evictHead (raise (.patternMiss .preamble) s)))

/-- What FRAME.CAPTURE hands over for a packet: the frame, or the failure notice of a short one (R192). -/
def handOver (pkt : List Bit) (s : State) : State :=
  match fieldsOf pkt with
  | none => emitFailure pkt.length (raise (.structuralShort pkt.length) s)
  | some f => emitZWave f s

/-- FRAME.CAPTURE on its window (R192): decode, find the terminator, cut out the packet, hand it over, and remove
exactly the `2e` consumed symbols (R194). -/
def captureWindow (w : List Bit) (s : State) : State :=
  let t := manchPairs w
  let e := terminator t
  removeHead (2 * e) (handOver (packetOf t e) s)

/-- FRAME.CAPTURE (R192): its window is `MemRead(0, 1680)`. -/
def captureFrame (s : State) : Host.Outcome State Fault Refusal :=
  withWindow Config.cap s (fun w => .next (captureWindow w s))

/-- An unmatched delimiter compare (R189): recorded, the head evicted, the attempt counted, and at the limit the search
given up. -/
def missDelimiter (s : State) : State :=
  let s1 := evictHead (raise (.patternMiss .delimiter) s)
  let s2 : State := { s1 with sfdAttempts := s1.sfdAttempts + 1 }
  if s2.params.sfdAttemptLimit ≤ s2.sfdAttempts then bailout s2 else s2

/-- SYNC.SFD (R189). -/
def searchDelimiter (s : State) : Host.Outcome State Fault Refusal :=
  withWindow Config.sfdLen s (fun w =>
    if w = Config.sfd then andThen (captureFrame s) (fun s1 => .next (enterSync .searchingPreamble s1))
    else .next (missDelimiter s))

/-- SYNC.STEP (R186): the one compare the current state calls for. -/
def syncCompare (s : State) : Host.Outcome State Fault Refusal :=
  match s.syncState with
  | .searchingPreamble => searchPreamble s
  | .searchingDelimiter => searchDelimiter s

/-- MZ.SYM on a chip that is accepted (R185): push, and one compare when the buffer is then full. -/
def acceptChip (chip : Bit) (s : State) : Host.Outcome State Fault Refusal :=
  if (pushSymbol chip s).buf.length = Config.cap then syncCompare (pushSymbol chip s)
  else .next (pushSymbol chip s)

/-- A compare of the leading window with a pattern of its length, "for exact equality" (R96). -/
def comparePattern (pattern : List Bit) (s : State) : Host.Outcome State Fault Refusal :=
  withWindow pattern.length s (fun w => .next (s.returning (.bool (decide (w = pattern)))))

/-! ## Meanings -/

/-- MZ.SYM(s) (R185, R266). -/
def execMzSym (chip : Bit) (s : State) : Host.Outcome State Fault Refusal :=
  unlessHalted s (fun s => acceptChip chip s)

/-- SYNC.STEP (R186). -/
def execSyncStep (s : State) : Host.Outcome State Fault Refusal := syncCompare s

/-- SYNC.PRE (R187). -/
def execSyncPre (s : State) : Host.Outcome State Fault Refusal := searchPreamble s

/-- SYNC.SFD (R189). -/
def execSyncSfd (s : State) : Host.Outcome State Fault Refusal := searchDelimiter s

/-- SYNC.BAILOUT (R191). -/
def execSyncBailout (s : State) : Host.Outcome State Fault Refusal := .next (bailout s)

/-- FRAME.CAPTURE (R192). -/
def execFrameCapture (s : State) : Host.Outcome State Fault Refusal := captureFrame s

/-- PREAMBLE: whether the leading 32 symbols are the pattern (R94, R96). -/
def execPreamble (s : State) : Host.Outcome State Fault Refusal := comparePattern Config.preamble s

/-- SFD: whether the leading 16 symbols are the pattern (R95, R96). -/
def execSfd (s : State) : Host.Outcome State Fault Refusal := comparePattern Config.sfd s

end Machine

end Sys2Proof
end

