-- ==== Sys2Proof/Machine/Timing.lean ====
section
/-! DEFINITION. Lane P, the timing bit extractor (40_timing_bit_extractor.md): PW.SYM, its internal operations, and
the pulse-width classes of R97. -/

namespace Sys2Proof

namespace Machine

/-! ## Shared operations -/

/-- `elapsed` of an edge at a stream index: natural subtraction, "never negative" (R121; log entry 7). -/
def elapsedAt (index : Nat) (s : State) : Nat := index - s.pwLastTransitionIndex

/-- The writes of PW.EDGE (R121). -/
def recordEdge (index : Nat) (level : Bit) (s : State) : State :=
  { s with pwLastTransitionIndex := index, pwLastLevel := level }

/-- PW.RESYNC (R122): SyncLoss is recorded and the accumulator discarded. -/
def discardAcc (elapsed : Nat) (s : State) : State :=
  { raise (.syncLoss elapsed) s with pwAcc := [] }

/-- PW.CLASSIFY (R123): the bit a high pulse of this length stands for. -/
def classifyPulse (elapsed : Nat) : Bit := decide (elapsed ≤ Config.shortMax)

/-- PW.APPEND (R124). -/
def appendBit (bit : Bit) (s : State) : State := { s with pwAcc := s.pwAcc ++ [bit] }

/-- DB.BUTTON (R126): positions 1 to 8, least significant bit first. -/
def buttonOf (acc : List Bit) : BitVec 8 := shiftInAll 8 acc 1 8

/-- DB.TONE (R127): positions 9 to 12, least significant bit first. -/
def toneOf (acc : List Bit) : BitVec 4 := shiftInAll 4 acc 9 12

/-- The DoorbellFrame of a completed accumulator (R98, R125). -/
def doorbellOf (acc : List Bit) : DoorbellFrame := { buttonId := buttonOf acc, tone := toneOf acc }

/-- PW.COMPLETE (R125): emit the accumulator's frame and clear it. -/
def completeAcc (s : State) : State := { emitDoorbell (doorbellOf s.pwAcc) s with pwAcc := [] }

/-- Step 4 of R120: completion is tested after an append. -/
def completeIfFull (s : State) : State := if s.pwAcc.length = Config.frameBits then completeAcc s else s

/-- PW.SYM on a symbol that is accepted (R120): the four numbered steps in their order. -/
def acceptLevel (level : Bit) (s : State) : State :=
  let index := s.pwIndex
  let s1 : State := { s with pwIndex := s.pwIndex + 1 }
  if level ≠ s1.pwLastLevel then
    let elapsed := elapsedAt index s1
    let s2 := recordEdge index level s1
    let s3 := if Config.resyncMin < elapsed then discardAcc elapsed s2 else s2
    if level = false then completeIfFull (appendBit (classifyPulse elapsed) s3) else s3
  else s1

/-- The edge a symbol makes at a state: none when the level is unchanged, else the new level (R97). -/
def edgeOf (level : Bit) (s : State) : Option Bit := if level = s.pwLastLevel then none else some level

/-- The class of the PW.SYM step a symbol makes at a state (R97). -/
def classOf (level : Bit) (s : State) : Instr := decodePwClass (edgeOf level s) (elapsedAt s.pwIndex s)

/-- What a row of R97's table does with an edge to `level`: the accumulator is discarded first or not, and a bit is
appended or none. The edge itself and the index are as for every edge (R120, R121). -/
def classEdge (level : Bit) (discard : Bool) (bit : Option Bit) (s : State) : State :=
  let elapsed := elapsedAt s.pwIndex s
  let s1 := recordEdge s.pwIndex level { s with pwIndex := s.pwIndex + 1 }
  let s2 := if discard then discardAcc elapsed s1 else s1
  match bit with
  | none => s2
  | some b => completeIfFull (appendBit b s2)

/-! ## Meanings -/

/-- PW.SYM(s) (R120, R266). -/
def execPwSym (level : Bit) (s : State) : Host.Outcome State Fault Refusal :=
  unlessHalted s (fun s => .next (acceptLevel level s))

/-- PW.SHORT: a falling edge, no discard, bit 1 (R97, R123). -/
def execPwShort (s : State) : Host.Outcome State Fault Refusal := .next (classEdge false false (some true) s)

/-- PW.LONG: a falling edge, no discard, bit 0 (R97, R123). -/
def execPwLong (s : State) : Host.Outcome State Fault Refusal := .next (classEdge false false (some false) s)

/-- PW.LONGRESYNC: a falling edge, the accumulator discarded first, then bit 0 (R97, R129). -/
def execPwLongResync (s : State) : Host.Outcome State Fault Refusal := .next (classEdge false true (some false) s)

/-- PW.RISE: a rising edge, no discard, no bit (R97). -/
def execPwRise (s : State) : Host.Outcome State Fault Refusal := .next (classEdge true false none s)

/-- PW.RISERESYNC: a rising edge, the accumulator discarded, no bit (R97, R122). -/
def execPwRiseResync (s : State) : Host.Outcome State Fault Refusal := .next (classEdge true true none s)

/-- PW.HOLD: no transition; only `pw_index` advances (R97, R130). -/
def execPwHold (s : State) : Host.Outcome State Fault Refusal := .next { s with pwIndex := s.pwIndex + 1 }

/-- PW.EDGE(index, s) (R121): returns `elapsed`. -/
def execPwEdge (index : Nat) (level : Bit) (s : State) : Host.Outcome State Fault Refusal :=
  .next ((recordEdge index level s).returning (.nat (elapsedAt index s)))

/-- PW.RESYNC (R122). Its caller's `elapsed` is the info it records (log entry 13). -/
def execPwResync (elapsed : Nat) (s : State) : Host.Outcome State Fault Refusal := .next (discardAcc elapsed s)

/-- PW.CLASSIFY(elapsed) (R123). -/
def execPwClassify (elapsed : Nat) (s : State) : Host.Outcome State Fault Refusal :=
  .next (s.returning (.bit (classifyPulse elapsed)))

/-- PW.APPEND(bit) (R124). -/
def execPwAppend (bit : Bit) (s : State) : Host.Outcome State Fault Refusal := .next (appendBit bit s)

/-- PW.COMPLETE (R125), performed on "exactly 13 bits". -/
def execPwComplete (s : State) : Host.Outcome State Fault Refusal :=
  if s.pwAcc.length = Config.frameBits then .next (completeAcc s) else .fault (.operandOutside "PW.COMPLETE")

/-- DB.BUTTON(acc) (R126): `acc` is a sequence of 13 bits. -/
def execDbButton (acc : List Bit) (s : State) : Host.Outcome State Fault Refusal :=
  if acc.length = Config.frameBits then .next (s.returning (.byte (buttonOf acc)))
  else .fault (.operandOutside "DB.BUTTON")

/-- DB.TONE(acc) (R127): `acc` is a sequence of 13 bits. -/
def execDbTone (acc : List Bit) (s : State) : Host.Outcome State Fault Refusal :=
  if acc.length = Config.frameBits then .next (s.returning (.nibble (toneOf acc)))
  else .fault (.operandOutside "DB.TONE")

/-- DOORBELL13 (R98): the fields of an accumulator by the layout. -/
def execDoorbell13 (acc : List Bit) (s : State) : Host.Outcome State Fault Refusal :=
  if acc.length = Config.frameBits then .next (s.returning (.doorbell (doorbellOf acc)))
  else .fault (.operandOutside "DOORBELL13")

end Machine

end Sys2Proof
end

