-- ==== Sys2Proof/Machine/System.lean ====
section
/-! DEFINITION. The system operations (46_system_operations.md): RST, CANCEL, IDLE, and the pseudo-operation BATCH. -/

namespace Sys2Proof

namespace Machine

/-! ## Shared operations -/

/-- One step that delivers one symbol to one lane: a step's beginning (R260), then the lane's symbol operation. -/
def deliverStep (lane : Lane) (b : Bit) (s : State) : Host.Outcome State Fault Refusal :=
  match lane with
  | .p => execPwSym b (beginStep s)
  | .m => execMzSym b (beginStep s)

/-- The single-symbol steps of a batch in their order, the outputs of each collected in order (R264). -/
def deliverAll (lane : Lane) : List Bit → List Outputs → State → Host.Outcome State Fault Refusal
  | [], outs, s => .next (s.returning (.batch outs outs.length))
  | b :: rest, outs, s => andThen (deliverStep lane b s) (fun s1 => deliverAll lane rest (outs ++ [s1.out]) s1)

/-! ## Meanings -/

/-- RST (R261). -/
def execRst (s : State) : Host.Outcome State Fault Refusal := .next (resetElements s)

/-- CANCEL (R262). -/
def execCancel (s : State) : Host.Outcome State Fault Refusal := .next (setHalted s)

/-- IDLE (R263): "No state element changes". -/
def execIdle (s : State) : Host.Outcome State Fault Refusal := .next s

/-- BATCH(lane, symbols) (R264): the sequence of its single-symbol steps; it returns their outputs and the number of
symbols consumed. -/
def execBatch (lane : Lane) (symbols : List Bit) (s : State) : Host.Outcome State Fault Refusal :=
  deliverAll lane symbols [] s

end Machine

end Sys2Proof
end

