-- ==== Sys2Proof/Machine/Dispatch.lean ====
section
/-! DEFINITION. What each operation does: one arm for each constructor of `Instr`, one direct call of its meaning. -/

namespace Sys2Proof

namespace Machine

def exec (i : Instr) (s : State) : Host.Outcome State Fault Refusal :=
  match i with
  | .rst => Sys2Proof.Machine.execRst s
  | .cancel => Sys2Proof.Machine.execCancel s
  | .mzSym b => Sys2Proof.Machine.execMzSym b s
  | .pwSym b => Sys2Proof.Machine.execPwSym b s
  | .idle => Sys2Proof.Machine.execIdle s
  | .batch lane symbols => Sys2Proof.Machine.execBatch lane symbols s
  | .manchInv0 => Sys2Proof.Machine.execManchInv0 s
  | .manchZero => Sys2Proof.Machine.execManchZero s
  | .manchOne => Sys2Proof.Machine.execManchOne s
  | .manchInv1 => Sys2Proof.Machine.execManchInv1 s
  | .manch a b => Sys2Proof.Machine.execManch a b s
  | .pwShort => Sys2Proof.Machine.execPwShort s
  | .pwLong => Sys2Proof.Machine.execPwLong s
  | .pwLongResync => Sys2Proof.Machine.execPwLongResync s
  | .pwRise => Sys2Proof.Machine.execPwRise s
  | .pwRiseResync => Sys2Proof.Machine.execPwRiseResync s
  | .pwHold => Sys2Proof.Machine.execPwHold s
  | .preamble => Sys2Proof.Machine.execPreamble s
  | .sfd => Sys2Proof.Machine.execSfd s
  | .doorbell13 acc => Sys2Proof.Machine.execDoorbell13 acc s
  | .zwPacket pkt => Sys2Proof.Machine.execZwPacket pkt s
  | .triState code => Sys2Proof.Machine.execTriState code s
  | .pwEdge index level => Sys2Proof.Machine.execPwEdge index level s
  | .pwResync elapsed => Sys2Proof.Machine.execPwResync elapsed s
  | .pwClassify elapsed => Sys2Proof.Machine.execPwClassify elapsed s
  | .pwAppend bit => Sys2Proof.Machine.execPwAppend bit s
  | .pwComplete => Sys2Proof.Machine.execPwComplete s
  | .dbButton acc => Sys2Proof.Machine.execDbButton acc s
  | .dbTone acc => Sys2Proof.Machine.execDbTone acc s
  | .manchSeq w => Sys2Proof.Machine.execManchSeq w s
  | .manchTerm t => Sys2Proof.Machine.execManchTerm t s
  | .bufPush b => Sys2Proof.Machine.execBufPush b s
  | .bufEvict => Sys2Proof.Machine.execBufEvict s
  | .bufRemove k => Sys2Proof.Machine.execBufRemove k s
  | .bufRead n => Sys2Proof.Machine.execBufRead n s
  | .syncStep => Sys2Proof.Machine.execSyncStep s
  | .syncPre => Sys2Proof.Machine.execSyncPre s
  | .syncSfd => Sys2Proof.Machine.execSyncSfd s
  | .syncBailout => Sys2Proof.Machine.execSyncBailout s
  | .frameCapture => Sys2Proof.Machine.execFrameCapture s
  | .pktExtract t e => Sys2Proof.Machine.execPktExtract t e s
  | .fxPack pkt => Sys2Proof.Machine.execFxPack pkt s
  | .fxFields pkt => Sys2Proof.Machine.execFxFields pkt s
  | .chkXor seq => Sys2Proof.Machine.execChkXor seq s
  | .chkRange len n => Sys2Proof.Machine.execChkRange len n s
  | .chkOk bytes len crc => Sys2Proof.Machine.execChkOk bytes len crc s
  | .zwBuild pkt => Sys2Proof.Machine.execZwBuild pkt s
  | .chkFrame frame => Sys2Proof.Machine.execChkFrame frame s
  | .emitDb frame => Sys2Proof.Machine.execEmitDb frame s
  | .emitZw frame => Sys2Proof.Machine.execEmitZw frame s
  | .emitFail n => Sys2Proof.Machine.execEmitFail n s

end Machine

end Sys2Proof
end

