-- ==== Sys2Proof/Machine/Fetch.lean ====
section
/-! DEFINITION. How a step gets its input word, runs the operations it selects (R260), and how a code is placed so that
the very next step meets it (log entries 1 and 10). -/

namespace Sys2Proof

namespace Machine

/-- The input word with no request and no symbol: IDLE (R263). -/
def idleWord : BitVec 6 := 0b000000#6

/-- The word the outside presents to the next step: the first still to come, and with none left the idle word, since
waiting for symbols is idle steps (R263, R280). -/
def presentedWord (s : State) : BitVec 6 := s.inputs.headD idleWord

/-- The state in which the presented word is taken: a new step's record over the words left. -/
def takeWord (s : State) : State := beginStep { s with inputs := s.inputs.tail }

/-- Run operations one after another within one step; a stop ends it. -/
def runAll : List Instr → State → Host.Outcome State Fault Refusal
  | [], s => .next s
  | i :: rest, s => andThen (exec i s) (fun s1 => runAll rest s1)

/-- A buffer that one more chip fills, beginning with the given symbols and otherwise idle (all zero). -/
def primedBuffer (lead : List Bit) : Memory :=
  (lead ++ List.replicate (Config.cap - 1) false).take (Config.cap - 1)

/-- Lane M one chip short of a compare in the given state. -/
def primeLaneM (st : SyncState) (lead : List Bit) (s : State) : State :=
  { s with
      buf := primedBuffer lead, syncState := st, sfdAttempts := 0, halted := false
      inputs := laneWord .m false :: s.inputs }

/-- Manchester chips of bits: `0 1` for 0, `1 0` for 1 (R106). -/
def chipsOf (bits : List Bit) : List Bit := bits.flatMap (fun b => [b, !b])

/-- Lane P one falling edge short of the given accumulator: all its bits but the last are in place, and the pulse that
ends has the length of the last bit's class. -/
def primeLaneP (acc : List Bit) (s : State) : State :=
  { s with
      pwAcc := acc.dropLast, pwLastLevel := true, pwLastTransitionIndex := s.pwIndex
      pwIndex := s.pwIndex + (if acc.getLastD true then 1 else Config.shortMax + 1), halted := false
      inputs := laneWord .p false :: s.inputs }

/-- Place a code where the next step meets it: an input word at the front of the words to come; a pattern at the head
of a buffer that the next chip fills, in the state that compares with it; chip pairs after a delimiter, where a capture
decodes them; an accumulator one edge before its completion. No step takes a tri-state code (R93). -/
def placeCode (c : Code) (s : State) : State :=
  match c with
  | .inputWord iw => { s with inputs := iw :: s.inputs }
  | .inputWords ws => { s with inputs := ws ++ s.inputs }
  | .chipPair ab => primeLaneM .searchingDelimiter (Config.sfd ++ [ab.getLsbD 1, ab.getLsbD 0]) s
  | .pattern32 w => primeLaneM .searchingPreamble (bitsOf 32 w.toNat) s
  | .pattern16 w => primeLaneM .searchingDelimiter (bitsOf 16 w.toNat) s
  | .doorbell acc => primeLaneP acc s
  | .packet pkt => primeLaneM .searchingDelimiter (Config.sfd ++ chipsOf pkt) s
  | .tri2 _ => s

end Machine

end Sys2Proof
end

