-- ==== Sys2Proof/Machine/Step.lean ====
section
/-! DEFINITION. One step of the block (R260 46_system_operations.md). -/

namespace Sys2Proof

namespace Machine

/-- One step: take the presented input word and run the operations it decodes to, in order (R260). -/
def step (s : State) : Host.Outcome State Fault Refusal :=
  runAll (decodeInputWord (presentedWord s)) (takeWord s)

/-- The state whose very next step meets a table row's number; a number that is no code of the block is presented as
an input word of its six low bits. -/
def State.withFetchWord (s : State) (nbits w : Nat) : State :=
  placeCode ((codeOf nbits w).getD (.inputWord (BitVec.ofNat 6 w))) s

end Machine

end Sys2Proof
end

