-- ==== Sys2Proof/Safety.lean ====
section
/-! DEFINITION. What holds between steps (R36 10_state.md and the rules it rests on), in the words the statements use,
and when two states differ in nothing that an output can show (R309, U3). -/

namespace Sys2Proof

namespace Machine

/-- What R104 and R39 say of the outputs of one step: a frame and a failure notice never stand together, a payload has
at most 93 bytes, a failure notice carries 0..88. -/
structure Outputs.Sound (o : Outputs) : Prop where
  exclusive : o.zwave = Option.none ∨ o.fail = Option.none
  payload : ∀ f, o.zwave = some f → f.payload.length ≤ Config.payloadMax
  short : ∀ n, o.fail = some n → n ≤ Config.headerBits

/-- No lane P edge has been processed since reset (R131 item 2): the registers of PW.EDGE hold their reset values and
the accumulator is empty. -/
structure State.NoEdgeYet (s : State) : Prop where
  level : s.pwLastLevel = false
  index : s.pwLastTransitionIndex = 0
  acc : s.pwAcc = []

/-- The invariants of R36 (I1 to I6), the limit's range (R7), the one situation in which the buffer is full between
steps (R170), and the sound record of the step just made. -/
structure State.Inv (s : State) : Prop where
  /-- I1 -/
  acc : s.pwAcc.length ≤ 12
  /-- I2 -/
  buf : s.buf.length ≤ 1680
  /-- I3 -/
  searching : s.syncState = .searchingPreamble → s.sfdAttempts = 0
  /-- I4 -/
  delimiter : s.syncState = .searchingDelimiter → s.sfdAttempts < s.params.sfdAttemptLimit ∧ 1679 ≤ s.buf.length
  /-- I5 -/
  transition : s.pwLastTransitionIndex ≤ s.pwIndex
  /-- I5, the strict part -/
  edge : s.pwLastTransitionIndex < s.pwIndex ∨ s.NoEdgeYet
  /-- I6 -/
  origin : s.params.indexOrigin ≤ s.pwIndex
  /-- `SFD_ATTEMPT_LIMIT` is at least 1 -/
  limit : 1 ≤ s.params.sfdAttemptLimit
  /-- a full buffer is left by a preamble match only -/
  full : s.buf.length = 1680 → s.syncState = .searchingDelimiter ∧ s.sfdAttempts = 0
  out : s.out.Sound
  /-- R35: nothing a pure operation returned is carried to the next step -/
  result : s.result = none

/-- Two states that agree in everything but the stream indices, the index origin and the conditions recorded, and whose
indices give the same elapsed samples unless neither has seen an edge yet. -/
structure State.SameButIndices (s t : State) : Prop where
  level : t.pwLastLevel = s.pwLastLevel
  acc : t.pwAcc = s.pwAcc
  buf : t.buf = s.buf
  syncState : t.syncState = s.syncState
  sfdAttempts : t.sfdAttempts = s.sfdAttempts
  halted : t.halted = s.halted
  limit : t.params.sfdAttemptLimit = s.params.sfdAttemptLimit
  inputs : t.inputs = s.inputs
  out : t.out = s.out
  order : s.pwLastTransitionIndex ≤ s.pwIndex ∧ t.pwLastTransitionIndex ≤ t.pwIndex
  elapsed : t.pwIndex - t.pwLastTransitionIndex = s.pwIndex - s.pwLastTransitionIndex ∨
    (s.pwLastLevel = false ∧ s.pwAcc = [])

end Machine

end Sys2Proof
end

