-- ==== Sys2Proof/Certificates/Slice0/Obligations.lean ====
section
/-! DEFINITION. The statements for the provers, in the order of the spec's files: steps and the input word, lane P, the
Manchester decoder, the buffer, the synchronizer, the field extractor and checksum, the outputs, the system operations,
and the whole machine. A right side of the form `s` with fields replaced says the frame too: every other field is as it
was. -/

open Sys2Proof Sys2Proof.Machine

/-! ## Steps and encodings -/

/-- A step runs the operations its input word decodes to on the state with the word taken and the record of the step
before cleared; with no word left to present it is IDLE (R260; how words are presented is the model's, log entry 1). -/
def Obligations.StepRunsThePresentedWord : Prop :=
  ∀ (s : State),
    (s.inputs = [] →
      step s = exec .idle { s with out := ⟨none, none, none⟩, condsP := [], condsM := [], result := none }) ∧
    ∀ (iw : BitVec 6) (ws : List (BitVec 6)), s.inputs = iw :: ws →
      let s0 : State :=
        { s with inputs := ws, out := ⟨none, none, none⟩, condsP := [], condsM := [], result := none }
      (∀ i, decodeInputWord iw = [i] → step s = exec i s0) ∧
      (∀ i j, decodeInputWord iw = [i, j] → step s = andThen (exec i s0) (fun s1 => exec j s1))

/-- The decoding of the input word by its six bits and in its priority order, and by the rows' match and mask values
(R90, R260). That a word with both valid bits gives lane P's operation before lane M's is the model's order, since R90
gives none and R74 lets a model take either (log entry 16). -/
def Obligations.InputWordSelectsOperations : Prop :=
  ∀ (iw : BitVec 6),
    (iw.getLsbD 5 = true → decodeInputWord iw = [.rst]) ∧
    (iw.getLsbD 5 = false → iw.getLsbD 4 = true → decodeInputWord iw = [.cancel]) ∧
    (iw.getLsbD 5 = false → iw.getLsbD 4 = false →
      (iw.getLsbD 3 = false → iw.getLsbD 1 = false → decodeInputWord iw = [.idle]) ∧
      (iw.getLsbD 3 = false → iw.getLsbD 1 = true → decodeInputWord iw = [.pwSym (iw.getLsbD 0)]) ∧
      (iw.getLsbD 3 = true → iw.getLsbD 1 = false → decodeInputWord iw = [.mzSym (iw.getLsbD 2)]) ∧
      (iw.getLsbD 3 = true → iw.getLsbD 1 = true →
        decodeInputWord iw = [.pwSym (iw.getLsbD 0), .mzSym (iw.getLsbD 2)])) ∧
    (Instr.rst ∈ decodeInputWord iw ↔ iw &&& 0b100000#6 = 0b100000#6) ∧
    (Instr.cancel ∈ decodeInputWord iw ↔ iw &&& 0b110000#6 = 0b010000#6) ∧
    (((∃ b, Instr.mzSym b ∈ decodeInputWord iw) ↔ iw &&& 0b111000#6 = 0b001000#6)) ∧
    (((∃ b, Instr.pwSym b ∈ decodeInputWord iw) ↔ iw &&& 0b110010#6 = 0b000010#6)) ∧
    (Instr.idle ∈ decodeInputWord iw ↔ iw &&& 0b111010#6 = 0b000000#6)

/-- A few words written out from the spec's encodings decode to what they stand for (R90, R92, R94, R95). That the number
of bits tells the format, so that 2 bits are a chip pair and not a tri-state code, is the model's choice (log entry 9).
-/
def Obligations.WrittenWordsDecode : Prop :=
  decodeTableWord 6 0b100000 = some .rst ∧
  decodeTableWord 6 0b010000 = some .cancel ∧
  decodeTableWord 6 0b001000 = some (.mzSym false) ∧
  decodeTableWord 6 0b001100 = some (.mzSym true) ∧
  decodeTableWord 6 0b000010 = some (.pwSym false) ∧
  decodeTableWord 6 0b000011 = some (.pwSym true) ∧
  decodeTableWord 6 0b000000 = some .idle ∧
  decodeTableWord 2 0b01 = some .manchZero ∧
  decodeTableWord 2 0b10 = some .manchOne ∧
  decodeTableWord 32 0xCCCCCCCC = some .preamble ∧
  decodeTableWord 16 0xAA55 = some .sfd ∧
  decodeTableWord 16 0xAA54 = none

/-- Decode and encode agree: every well-formed operation that has a code decodes back to itself, with every operand.
The row MANCH is the function whose four cases are the rows MANCH.*: its code decodes to the case, which does the
same. -/
def Obligations.DecodeOfEncodeIsTheInstruction : Prop :=
  ∀ (i : Instr) (c : Code), i.wf = true → encode i = some c →
    (∀ a b, i ≠ .manch a b) ∧ decode c = .ok [i] ∨
    (∃ a b j, i = .manch a b ∧ decode c = .ok [j] ∧ ∀ s, exec j s = exec i s)

/-! ## Lane P -/

/-- The class table of R97: edge direction and elapsed samples give the class. -/
def Obligations.PulseClassTable : Prop :=
  ∀ (elapsed : Nat),
    (elapsed ≤ 4 → decodePwClass (some false) elapsed = .pwShort) ∧
    (5 ≤ elapsed → elapsed ≤ 50 → decodePwClass (some false) elapsed = .pwLong) ∧
    (51 ≤ elapsed → decodePwClass (some false) elapsed = .pwLongResync) ∧
    (elapsed ≤ 50 → decodePwClass (some true) elapsed = .pwRise) ∧
    (51 ≤ elapsed → decodePwClass (some true) elapsed = .pwRiseResync) ∧
    decodePwClass none elapsed = .pwHold

/-- A PW.SYM step that is accepted does exactly what its class says, the class being read from the edge and the elapsed
samples at that state (R97, R120); while halted it does nothing (R266). -/
def Obligations.LevelSymbolActsAsItsClass : Prop :=
  ∀ (s : State) (b : Bit),
    (s.halted = true → exec (.pwSym b) s = .next s) ∧
    (s.halted = false → exec (.pwSym b) s =
      exec (decodePwClass (if b = s.pwLastLevel then none else some b) (s.pwIndex - s.pwLastTransitionIndex)) s)

/-- What each class does: the edge registers and the index as on every edge, the accumulator discarded first or not, a
bit appended or none, and the frame emitted and the accumulator cleared when the bit is the 13th (R97, R120 to R125).
PW.HOLD advances the index only. That a class runs by itself, and halted too, is the model's (log entry 8). -/
def Obligations.PulseClassEffects : Prop :=
  ∀ (s : State),
    exec .pwHold s = .next { s with pwIndex := s.pwIndex + 1 } ∧
    exec .pwRise s = .next { s with
      pwIndex := s.pwIndex + 1, pwLastTransitionIndex := s.pwIndex, pwLastLevel := true } ∧
    exec .pwRiseResync s = .next { s with
      pwIndex := s.pwIndex + 1, pwLastTransitionIndex := s.pwIndex, pwLastLevel := true, pwAcc := [],
      condsP := s.condsP ++ [.syncLoss (s.pwIndex - s.pwLastTransitionIndex)] } ∧
    exec .pwLongResync s = .next { s with
      pwIndex := s.pwIndex + 1, pwLastTransitionIndex := s.pwIndex, pwLastLevel := false, pwAcc := [false],
      condsP := s.condsP ++ [.syncLoss (s.pwIndex - s.pwLastTransitionIndex)] } ∧
    (s.pwAcc.length ≠ 12 →
      exec .pwShort s = .next { s with
        pwIndex := s.pwIndex + 1, pwLastTransitionIndex := s.pwIndex, pwLastLevel := false,
        pwAcc := s.pwAcc ++ [true] } ∧
      exec .pwLong s = .next { s with
        pwIndex := s.pwIndex + 1, pwLastTransitionIndex := s.pwIndex, pwLastLevel := false,
        pwAcc := s.pwAcc ++ [false] }) ∧
    (s.pwAcc.length = 12 →
      exec .pwShort s = .next { s with
        pwIndex := s.pwIndex + 1, pwLastTransitionIndex := s.pwIndex, pwLastLevel := false, pwAcc := [],
        out := { s.out with doorbell := some ⟨buttonOf (s.pwAcc ++ [true]), toneOf (s.pwAcc ++ [true])⟩ } } ∧
      exec .pwLong s = .next { s with
        pwIndex := s.pwIndex + 1, pwLastTransitionIndex := s.pwIndex, pwLastLevel := false, pwAcc := [],
        out := { s.out with doorbell := some ⟨buttonOf (s.pwAcc ++ [false]), toneOf (s.pwAcc ++ [false])⟩ } })

/-- A symbol equal to the last level changes only `pw_index` (R130). -/
def Obligations.UnchangedLevelAdvancesIndexOnly : Prop :=
  ∀ (s : State) (b : Bit), s.halted = false → b = s.pwLastLevel →
    exec (.pwSym b) s = .next { s with pwIndex := s.pwIndex + 1 }

/-- A falling edge after more than 50 samples empties the accumulator and then appends bit 0, and emits nothing
(R129). -/
def Obligations.LongPulseLeavesOneZeroBit : Prop :=
  ∀ (s : State), s.halted = false → s.pwLastLevel = true → 50 < s.pwIndex - s.pwLastTransitionIndex →
    exec (.pwSym false) s = .next { s with
      pwIndex := s.pwIndex + 1, pwLastTransitionIndex := s.pwIndex, pwLastLevel := false, pwAcc := [false],
      condsP := s.condsP ++ [.syncLoss (s.pwIndex - s.pwLastTransitionIndex)] }

/-- The falling edge that delivers the 13th bit emits the frame in that step and leaves the accumulator empty: whatever
the 13 bits are, `button_id` is positions 1 to 8 and `tone` positions 9 to 12, least significant first (R125, R100). -/
def Obligations.ThirteenthBitEmitsTheFrame : Prop :=
  ∀ (s : State), s.halted = false → s.pwLastLevel = true → s.pwAcc.length = 12 →
    s.pwIndex - s.pwLastTransitionIndex ≤ 50 →
    ∃ f : DoorbellFrame,
      exec (.pwSym false) s = .next { s with
        pwIndex := s.pwIndex + 1, pwLastTransitionIndex := s.pwIndex, pwLastLevel := false, pwAcc := [],
        out := { s.out with doorbell := some f } } ∧
      (∀ k, k < 8 → some (f.buttonId.getLsbD k) = s.pwAcc[1 + k]?) ∧
      (∀ k, k < 3 → some (f.tone.getLsbD k) = s.pwAcc[9 + k]?) ∧
      f.tone.getLsbD 3 = decide (s.pwIndex - s.pwLastTransitionIndex ≤ 4)

/-- PW.EDGE, PW.RESYNC, PW.CLASSIFY and PW.APPEND as their pseudocode says (R121 to R124). That a returned value stands in
`result` and that PW.RESYNC has an operand are the model's (log entries 2 and 13). -/
def Obligations.TimingInternalOperations : Prop :=
  ∀ (s : State),
    (∀ (index : Nat) (b : Bit), exec (.pwEdge index b) s = .next { s with
      pwLastTransitionIndex := index, pwLastLevel := b,
      result := some (.nat (index - s.pwLastTransitionIndex)) }) ∧
    (∀ (elapsed : Nat), exec (.pwResync elapsed) s = .next { s with
      pwAcc := [], condsP := s.condsP ++ [.syncLoss elapsed] }) ∧
    (∀ (elapsed : Nat), elapsed ≤ 4 → exec (.pwClassify elapsed) s = .next { s with result := some (.bit true) }) ∧
    (∀ (elapsed : Nat), 4 < elapsed → exec (.pwClassify elapsed) s = .next { s with result := some (.bit false) }) ∧
    (∀ (b : Bit), exec (.pwAppend b) s = .next { s with pwAcc := s.pwAcc ++ [b] })

/-- DB.BUTTON, DB.TONE and DOORBELL13 by the closed form: `button_id` is the sum of `acc[1+k] * 2^k` for `k` in 0..7 and
`tone` the sum of `acc[9+k] * 2^k` for `k` in 0..3 (R100, R126, R127). That the row DOORBELL13 (R98) gives the fields when
it runs is the model's (log entry 11). -/
def Obligations.DoorbellFieldsClosedForm : Prop :=
  ∀ (s : State) (acc : List Bit), acc.length = 13 →
    ∃ (v : BitVec 8) (t : BitVec 4),
      v.toNat = ((List.range 8).map (fun k => (acc.getD (1 + k) false).toNat * 2 ^ k)).sum ∧
      t.toNat = ((List.range 4).map (fun k => (acc.getD (9 + k) false).toNat * 2 ^ k)).sum ∧
      exec (.dbButton acc) s = .next { s with result := some (.byte v) } ∧
      exec (.dbTone acc) s = .next { s with result := some (.nibble t) } ∧
      exec (.doorbell13 acc) s = .next { s with result := some (.doorbell ⟨v, t⟩) }

/-- The round trip the document requires: a value sent least significant bit first in positions 1 to 8 and one in
positions 9 to 12 come back, whatever position 0 is (R128). -/
def Obligations.DoorbellRoundTrip : Prop :=
  ∀ (s : State) (v : BitVec 8) (t : BitVec 4) (start : Bit),
    let acc := start :: ((List.range 8).map (fun k => v.getLsbD k) ++ (List.range 4).map (fun k => t.getLsbD k))
    exec (.dbButton acc) s = .next { s with result := some (.byte v) } ∧
    exec (.dbTone acc) s = .next { s with result := some (.nibble t) }

/-- PW.COMPLETE on exactly 13 bits emits the frame that DB.BUTTON and DB.TONE give and clears the accumulator, and it is
performed when an append has made the 13th bit, in the step of the falling edge that delivers it (R125). -/
def Obligations.CompletionEmitsAndClears : Prop :=
  ∀ (s : State),
    (s.pwAcc.length = 13 → ∃ f : DoorbellFrame,
      exec .pwComplete s = .next { s with pwAcc := [], out := { s.out with doorbell := some f } } ∧
      exec (.dbButton s.pwAcc) s = .next { s with result := some (.byte f.buttonId) } ∧
      exec (.dbTone s.pwAcc) s = .next { s with result := some (.nibble f.tone) }) ∧
    (s.halted = false → s.pwLastLevel = true → s.pwIndex - s.pwLastTransitionIndex ≤ 50 → s.pwAcc.length = 12 →
      exec (.pwSym false) s = exec .pwComplete { s with
        pwIndex := s.pwIndex + 1, pwLastTransitionIndex := s.pwIndex, pwLastLevel := false,
        pwAcc := s.pwAcc ++ [decide (s.pwIndex - s.pwLastTransitionIndex ≤ 4)] })

/-! ## The Manchester decoder -/

/-- MANCH and its four cases: 01 is Zero, 10 is One, 00 and 11 are Invalid; nothing else changes (R92, R150). -/
def Obligations.ChipPairTable : Prop :=
  ∀ (s : State),
    exec .manchInv0 s = .next { s with result := some (.tri .invalid) } ∧
    exec .manchZero s = .next { s with result := some (.tri .zero) } ∧
    exec .manchOne s = .next { s with result := some (.tri .one) } ∧
    exec .manchInv1 s = .next { s with result := some (.tri .invalid) } ∧
    exec (.manch false true) s = .next { s with result := some (.tri .zero) } ∧
    exec (.manch true false) s = .next { s with result := some (.tri .one) } ∧
    (∀ a, exec (.manch a a) s = .next { s with result := some (.tri .invalid) })

/-- MANCH.SEQ gives one value for every two chips, value `k` being that of the chips at `2k` and `2k+1` (R152). -/
def Obligations.SequenceDecodedPairwise : Prop :=
  ∀ (s : State) (w : List Bit), ∃ t : List Tri,
    exec (.manchSeq w) s = .next { s with result := some (.tris t) } ∧
    t.length = w.length / 2 ∧
    ∀ k, k < w.length / 2 → ∃ a b, w[2 * k]? = some a ∧ w[2 * k + 1]? = some b ∧
      t[k]? = some (if a = b then Tri.invalid else if a then Tri.one else Tri.zero)

/-- MANCH.TERM gives the least index of an Invalid value, and the length when there is none (R153). -/
def Obligations.TerminatorIsFirstInvalid : Prop :=
  ∀ (s : State) (t : List Tri), ∃ e : Nat,
    exec (.manchTerm t) s = .next { s with result := some (.nat e) } ∧
    (∀ k, k < e → ∃ x, t[k]? = some x ∧ x ≠ .invalid) ∧
    (e < t.length → t[e]? = some .invalid) ∧ e ≤ t.length

/-- The tri-state code: 00 Zero, 01 One, 10 Invalid, and a consumer reads 11 as Invalid (R93). That the row TRISTATE reads a
code when it runs is the model's (log entries 11 and 15). -/
def Obligations.TriStateCodes : Prop :=
  (∀ t, triOfCode (triCode t) = t ∧ triCode t ≠ 0b11#2) ∧
  triCode .zero = 0b00#2 ∧ triCode .one = 0b01#2 ∧ triCode .invalid = 0b10#2 ∧
  ∀ (s : State),
    exec (.triState 0b00#2) s = .next { s with result := some (.tri .zero) } ∧
    exec (.triState 0b01#2) s = .next { s with result := some (.tri .one) } ∧
    exec (.triState 0b10#2) s = .next { s with result := some (.tri .invalid) } ∧
    exec (.triState 0b11#2) s = .next { s with result := some (.tri .invalid) }

/-! ## The buffer -/

/-- BUF.PUSH: a full buffer loses its head first; then the symbol is the newest, at the last address, and every symbol
that stays is where R60's numbering puts it; a buffer within capacity stays within it (R165). -/
def Obligations.PushAppendsAtTheTail : Prop :=
  ∀ (s : State) (b : Bit), ∃ m : Memory,
    exec (.bufPush b) s = .next { s with buf := m } ∧
    1 ≤ m.length ∧ (s.buf.length ≤ 1680 → m.length ≤ 1680) ∧ memAt m (m.length - 1) = some b ∧
    (s.buf.length ≠ 1680 → m = s.buf ++ [b] ∧ ∀ a, a < s.buf.length → memAt m a = memAt s.buf a) ∧
    (s.buf.length = 1680 → m = s.buf.drop 1 ++ [b] ∧ ∀ a, a < 1679 → memAt m a = memAt s.buf (a + 1))

/-- BUF.EVICT removes the head symbol and BUF.REMOVE the first `k`; each symbol that stays is found that many addresses
lower, and no other state element changes (R63, R166, R167). -/
def Obligations.RemovalIsAtTheHead : Prop :=
  ∀ (s : State),
    exec .bufEvict s = .next { s with buf := s.buf.drop 1 } ∧
    (∀ a, memAt (s.buf.drop 1) a = memAt s.buf (a + 1)) ∧
    ∀ k, exec (.bufRemove k) s = .next { s with buf := s.buf.drop k } ∧
      ∀ a, memAt (s.buf.drop k) a = memAt s.buf (a + k)

/-- BUF.READ gives the leading window when the buffer holds that many symbols, and changes nothing (R168, R61). R168 gives
it for 16, 32 and 1680 symbols; that it reads any other number the buffer holds is the model's choice (log entry 6). -/
def Obligations.LeadingWindowRead : Prop :=
  ∀ (s : State) (n : Nat), n ≤ s.buf.length → ∃ w : List Bit,
    exec (.bufRead n) s = .next { s with result := some (.bits w) } ∧
    w.length = n ∧ ∀ a, a < n → w[a]? = memAt s.buf a

/-- Where the model stops by name (log entries 5 and 6): a leading window longer than the buffer, and an operand outside
the domain its rule states. These are the model's choices for operations run by themselves; no step meets one. -/
def Obligations.StopsOutsideTheRules : Prop :=
  ∀ (s : State),
    (∀ n, s.buf.length < n → exec (.bufRead n) s = .fault (.memReadOutside n s.buf.length)) ∧
    (s.buf.length < 32 → exec .syncPre s = .fault (.memReadOutside 32 s.buf.length) ∧
      exec .preamble s = .fault (.memReadOutside 32 s.buf.length)) ∧
    (s.buf.length < 16 → exec .syncSfd s = .fault (.memReadOutside 16 s.buf.length) ∧
      exec .sfd s = .fault (.memReadOutside 16 s.buf.length)) ∧
    (s.buf.length < 1680 → exec .frameCapture s = .fault (.memReadOutside 1680 s.buf.length)) ∧
    (16 ≤ s.buf.length → s.buf.length < 1680 → s.buf.take 16 = Config.sfd →
      exec .syncSfd s = .fault (.memReadOutside 1680 s.buf.length)) ∧
    (s.pwAcc.length ≠ 13 → exec .pwComplete s = .fault (.operandOutside "PW.COMPLETE")) ∧
    (∀ acc : List Bit, acc.length ≠ 13 →
      exec (.dbButton acc) s = .fault (.operandOutside "DB.BUTTON") ∧
      exec (.dbTone acc) s = .fault (.operandOutside "DB.TONE") ∧
      exec (.doorbell13 acc) s = .fault (.operandOutside "DOORBELL13")) ∧
    (∀ pkt : List Bit, pkt.length ≤ 88 → exec (.zwBuild pkt) s = .fault (.operandOutside "ZW.BUILD")) ∧
    exec (.chkFrame []) s = .fault (.operandOutside "CHK.FRAME") ∧
    (∀ (t : List Tri) (e : Nat), (t.length < e ∨ ∃ k, 8 ≤ k ∧ k < e ∧ t[k]? = some .invalid) →
      exec (.pktExtract t e) s = .fault (.operandOutside "PKT.EXTRACT"))

/-- The rows PREAMBLE and SFD are compares for exact equality of the leading window with the pattern; the preamble's
symbol `i` is 1 when `i mod 4` is 0 or 1 (R94 to R96; that executing such a row is the compare is the model's choice,
log entry 11). -/
def Obligations.PatternRowsCompareTheWindow : Prop :=
  Config.preamble.length = 32 ∧ (∀ i, i < 32 → Config.preamble[i]? = some (decide (i % 4 < 2))) ∧
  BitVec.ofNat 32 (val Config.preamble) = 0xCCCCCCCC#32 ∧
  Config.sfd.length = 16 ∧ BitVec.ofNat 16 (val Config.sfd) = 0xAA55#16 ∧
  ∀ (s : State),
    (32 ≤ s.buf.length → ∃ r : Bool,
      exec .preamble s = .next { s with result := some (.bool r) } ∧
      (r = true ↔ ∀ i, i < 32 → memAt s.buf i = some (decide (i % 4 < 2)))) ∧
    (16 ≤ s.buf.length → ∃ r : Bool,
      exec .sfd s = .next { s with result := some (.bool r) } ∧
      (r = true ↔ s.buf.take 16 = Config.sfd))

/-- Whatever the stream, the buffer never holds more than 1680 symbols after a step (R169). -/
def Obligations.BufferNeverExceedsCapacity : Prop :=
  ∀ (s t : State), s.buf.length ≤ 1680 → step s = .next t → t.buf.length ≤ 1680

/-- The buffer is always a contiguous run of the lane M stream: after a step that is not a reset it is the end part of
what it was with the chip the step delivered, if any, at its tail; a reset leaves it empty (R171). -/
def Obligations.BufferIsARunOfTheStream : Prop :=
  ∀ (s t : State) (iw : BitVec 6) (ws : List (BitVec 6)), s.inputs = iw :: ws → step s = .next t →
    (iw.getLsbD 5 = true → t.buf = []) ∧
    (iw.getLsbD 5 = false → ∃ k,
      t.buf = (if iw.getLsbD 4 = false ∧ iw.getLsbD 3 = true ∧ s.halted = false
        then s.buf ++ [iw.getLsbD 2] else s.buf).drop k)

/-! ## The frame synchronizer -/

/-- MZ.SYM: nothing while halted; else the push, and exactly one compare when the buffer is then full (R185). A buffer
above capacity, which no run reaches, takes the plain append that the push's own text gives it. -/
def Obligations.ChipIsPushedThenComparedWhenFull : Prop :=
  ∀ (s : State) (b : Bit),
    (s.halted = true → exec (.mzSym b) s = .next s) ∧
    (s.halted = false → s.buf.length ≠ 1679 → s.buf.length ≠ 1680 →
      exec (.mzSym b) s = .next { s with buf := s.buf ++ [b] }) ∧
    (s.halted = false → s.buf.length = 1679 → exec (.mzSym b) s = exec .syncStep { s with buf := s.buf ++ [b] }) ∧
    (s.halted = false → s.buf.length = 1680 →
      exec (.mzSym b) s = exec .syncStep { s with buf := s.buf.drop 1 ++ [b] })

/-- SYNC.STEP completes on a full buffer, as SYNC.PRE while searching the preamble and as SYNC.SFD while searching the
delimiter (R186). -/
def Obligations.CompareChosenByState : Prop :=
  ∀ (s : State), s.buf.length = 1680 → ∃ t : State,
    exec .syncStep s = .next t ∧
    (s.syncState = .searchingPreamble → exec .syncPre s = .next t) ∧
    (s.syncState = .searchingDelimiter → exec .syncSfd s = .next t)

/-- SYNC.PRE: on a match the delimiter search begins with no attempts and nothing is evicted; on a miss the head is
evicted (R187). -/
def Obligations.PreambleCompare : Prop :=
  ∀ (s : State), 32 ≤ s.buf.length →
    (s.buf.take 32 = Config.preamble →
      exec .syncPre s = .next { s with syncState := .searchingDelimiter, sfdAttempts := 0 }) ∧
    (s.buf.take 32 ≠ Config.preamble →
      exec .syncPre s = .next { s with
        buf := s.buf.drop 1, condsM := s.condsM ++ [.patternMiss .preamble] })

/-- SYNC.SFD: on a miss the head is evicted and the attempt counted, and at the limit the search is given up; on a match
it is the capture, then the return to the preamble search with no attempts (R189). SYNC.BAILOUT is that return alone
(R191). -/
def Obligations.DelimiterCompare : Prop :=
  ∀ (s : State),
    exec .syncBailout s = .next { s with syncState := .searchingPreamble, sfdAttempts := 0 } ∧
    (16 ≤ s.buf.length → s.buf.take 16 ≠ Config.sfd → s.sfdAttempts + 1 < s.params.sfdAttemptLimit →
      exec .syncSfd s = .next { s with
        buf := s.buf.drop 1, condsM := s.condsM ++ [.patternMiss .delimiter],
        sfdAttempts := s.sfdAttempts + 1 }) ∧
    (16 ≤ s.buf.length → s.buf.take 16 ≠ Config.sfd → s.params.sfdAttemptLimit ≤ s.sfdAttempts + 1 →
      exec .syncSfd s = .next { s with
        buf := s.buf.drop 1, condsM := s.condsM ++ [.patternMiss .delimiter],
        syncState := .searchingPreamble, sfdAttempts := 0 }) ∧
    (1680 ≤ s.buf.length → s.buf.take 16 = Config.sfd → ∃ t : State,
      exec .frameCapture s = .next t ∧
      exec .syncSfd s = .next { t with syncState := .searchingPreamble, sfdAttempts := 0 })

/-- FRAME.CAPTURE: the window's values up to the first Invalid, less the first eight, are the packet; its frame or, at
88 bits or fewer, a failure notice is emitted; the consumed symbols, two for each value before the terminator, are
removed; nothing else changes. A window that begins with the delimiter has at least eight values before its terminator
(R192, there marked derived). R192 performs the capture on such a window only; what it does on any other window is the
model's reading (log entry 18). -/
def Obligations.CaptureEmitsAndRemoves : Prop :=
  ∀ (s : State), 1680 ≤ s.buf.length →
    let t := manchPairs (s.buf.take 1680)
    let e := terminator t
    let pkt := packetOf t e
    (s.buf.take 16 = Config.sfd → 8 ≤ e) ∧ e ≤ 840 ∧ pkt.length = e - 8 ∧
    (pkt.length ≤ 88 → exec .frameCapture s = .next { s with
      buf := s.buf.drop (2 * e), condsM := s.condsM ++ [.structuralShort (e - 8)],
      out := { s.out with fail := some (e - 8) } }) ∧
    (88 < pkt.length → exec .frameCapture s = .next { s with
      buf := s.buf.drop (2 * e), out := { s.out with zwave := some (buildFrame pkt) } })

/-- PKT.EXTRACT gives the bits of `t[8 .. e-1]` in order, where those values exist and none is Invalid (R193). -/
def Obligations.PacketIsTheBitsBeforeTheTerminator : Prop :=
  ∀ (s : State) (t : List Tri) (e : Nat), 8 ≤ e → e ≤ t.length →
    (∀ k, 8 ≤ k → k < e → t[k]? ≠ some .invalid) →
    ∃ pkt : List Bit,
      exec (.pktExtract t e) s = .next { s with result := some (.bits pkt) } ∧
      pkt.length = e - 8 ∧
      ∀ i, i < e - 8 → ∃ b, pkt[i]? = some b ∧ t[8 + i]? = some (if b then Tri.one else Tri.zero)

/-- From chips to record: when the chip of a step completes a full buffer that holds the delimiter, the chips of a
packet, a pair that is no bit, and anything after it, the step hands over exactly that packet, as a frame when it has
more than 88 bits and as a failure notice otherwise; the delimiter's and the packet's symbols are gone and the
terminator pair and all after it stay (R192 to R194). -/
def Obligations.TransmittedPacketIsCaptured : Prop :=
  ∀ (s : State) (b : Bit) (pkt : List Bit) (x : Bit) (rest : List Bit),
    s.halted = false → s.syncState = .searchingDelimiter → s.buf.length = 1679 →
    s.buf ++ [b] = Config.sfd ++ chipsOf pkt ++ x :: x :: rest →
    ∃ t : State, exec (.mzSym b) s = .next t ∧
      t.syncState = .searchingPreamble ∧ t.sfdAttempts = 0 ∧ t.buf = x :: x :: rest ∧
      t.out.doorbell = s.out.doorbell ∧
      (88 < pkt.length → t.out.zwave = some (buildFrame pkt) ∧ t.out.fail = s.out.fail) ∧
      (pkt.length ≤ 88 → t.out.zwave = s.out.zwave ∧ t.out.fail = some pkt.length)

/-- The transition table of `sync_state`: for MZ.SYM on the buffer after the push its six rows, with the eviction, the
capture and the counter each row names and no output but the capture's; MZ.SYM while halted changes nothing; RST goes to the preamble search, and the other
top-level operations leave the state as it is: there is no other transition (R198). -/
def Obligations.SynchronizerTransitions : Prop :=
  ∀ (s : State),
    (∀ (t : State) (b : Bit), s.halted = false → s.buf.length ≤ 1680 → exec (.mzSym b) s = .next t →
      let w := (if s.buf.length = 1680 then s.buf.drop 1 else s.buf) ++ [b]
      let pkt := packetOf (manchPairs w) (terminator (manchPairs w))
      (w.length ≠ 1680 →
        t.syncState = s.syncState ∧ t.sfdAttempts = s.sfdAttempts ∧ t.buf = w ∧ t.out = s.out) ∧
      (w.length = 1680 → s.syncState = .searchingPreamble →
        (w.take 32 = Config.preamble →
          t.syncState = .searchingDelimiter ∧ t.sfdAttempts = 0 ∧ t.buf = w ∧ t.out = s.out) ∧
        (w.take 32 ≠ Config.preamble →
          t.syncState = .searchingPreamble ∧ t.sfdAttempts = s.sfdAttempts ∧ t.buf = w.drop 1 ∧ t.out = s.out)) ∧
      (w.length = 1680 → s.syncState = .searchingDelimiter →
        (w.take 16 = Config.sfd →
          t.syncState = .searchingPreamble ∧ t.sfdAttempts = 0 ∧ t.buf = w.drop (2 * terminator (manchPairs w)) ∧
          (t.out = { s.out with zwave := some (buildFrame pkt) } ∨ t.out = { s.out with fail := some pkt.length })) ∧
        (w.take 16 ≠ Config.sfd → s.sfdAttempts + 1 < s.params.sfdAttemptLimit →
          t.syncState = .searchingDelimiter ∧ t.sfdAttempts = s.sfdAttempts + 1 ∧ t.buf = w.drop 1 ∧
          t.out = s.out) ∧
        (w.take 16 ≠ Config.sfd → s.params.sfdAttemptLimit ≤ s.sfdAttempts + 1 →
          t.syncState = .searchingPreamble ∧ t.sfdAttempts = 0 ∧ t.buf = w.drop 1 ∧ t.out = s.out))) ∧
    (∀ b, s.halted = true → exec (.mzSym b) s = .next s) ∧
    (∀ t, exec .rst s = .next t → t.syncState = .searchingPreamble) ∧
    (∀ t b, exec (.pwSym b) s = .next t → t.syncState = s.syncState) ∧
    (∀ t, exec .cancel s = .next t → t.syncState = s.syncState) ∧
    (∀ t, exec .idle s = .next t → t.syncState = s.syncState)

/-- Forward progress: from a delimiter search, as many chips as there are attempts left bring the synchronizer back to
the preamble search at the latest with the last of them (R199 item 3). -/
def Obligations.DelimiterSearchEnds : Prop :=
  ∀ (s : State) (chips : List Bit), s.Inv → s.halted = false → s.syncState = .searchingDelimiter →
    s.inputs = chips.map (fun b => if b then 0b001100#6 else 0b001000#6) →
    chips.length = s.params.sfdAttemptLimit - s.sfdAttempts →
    ∃ (n : Nat) (t : State), n ≤ chips.length ∧ Host.Core.run Sys2Proof.core n s = .next t ∧
      t.syncState = .searchingPreamble

/-! ## Field extractor and checksum -/

/-- FX.PACK gives one byte for every eight bits, the first bit of each most significant, and drops the rest (R215). -/
def Obligations.PackingIsMostSignificantFirst : Prop :=
  ∀ (s : State) (pkt : List Bit), ∃ bytes : List Byte,
    exec (.fxPack pkt) s = .next { s with result := some (.bytes bytes) } ∧
    bytes.length = pkt.length / 8 ∧
    ∀ j, j < pkt.length / 8 → ∃ v : Byte, bytes[j]? = some v ∧
      ∀ i, i < 8 → pkt[8 * j + i]? = some (v.getLsbD (7 - i))

/-- FX.FIELDS: more than 88 bits give the frame that ZW.BUILD gives, 88 or fewer give no fields and no error (R216). -/
def Obligations.FieldsNeedMoreThanTheHeader : Prop :=
  ∀ (s : State) (pkt : List Bit),
    (88 < pkt.length → ∃ f : ZWaveFrame,
      exec (.fxFields pkt) s = .next { s with result := some (.fields (some f)) } ∧
      exec (.zwBuild pkt) s = .next { s with result := some (.fields (some f)) }) ∧
    (pkt.length ≤ 88 → exec (.fxFields pkt) s = .next { s with result := some (.fields none) })

/-- ZW.BUILD of a packet of more than 88 bits: the fields by its bytes, the payload from byte 11 on, the checksum over
the range its length field selects, and `crc_ok` exactly when the byte at `length - 1` was received and equals it
(R223, R217, R221, R222). Where the length is 0 or beyond the bytes received, the value of `crc` is the clamped range's,
which U6 calls any value to a consumer: the model's reading (log entry 19). -/
def Obligations.FrameBuiltFromBytes : Prop :=
  ∀ (s : State) (pkt : List Bit), 88 < pkt.length →
    let bytes := packBytes pkt
    ∃ (b0 b1 b2 b3 b4 b5 b6 len b8 b9 b10 : Byte) (payload : List Byte) (f : ZWaveFrame),
      bytes = b0 :: b1 :: b2 :: b3 :: b4 :: b5 :: b6 :: len :: b8 :: b9 :: b10 :: payload ∧
      exec (.zwBuild pkt) s = .next { s with result := some (.fields (some f)) } ∧
      f.homeId.toNat = b0.toNat * 2 ^ 24 + b1.toNat * 2 ^ 16 + b2.toNat * 2 ^ 8 + b3.toNat ∧
      f.sourceId = b4 ∧ f.frameControl.toNat = b5.toNat * 256 + b6.toNat ∧ f.length = len ∧
      f.destinationId = b8 ∧ f.commandClass = b9 ∧ f.command = b10 ∧ f.payload = payload ∧
      f.crc = (bytes.take (min (len.toNat - 1) bytes.length)).foldl (· ^^^ ·) 0xFF#8 ∧
      (f.crcOk = true ↔ 1 ≤ len.toNat ∧ bytes[len.toNat - 1]? = some f.crc)

/-- The layout ZWPACKET, read by bit offsets with the first bit of a field most significant, gives the fields that
ZW.BUILD reads by bytes; a packet of 88 bits or fewer has no layout (R99, R101, R217, R103 item 8). That the row ZWPACKET
gives the fields when it runs is the model's (log entry 11). -/
def Obligations.LayoutByBitsIsLayoutByBytes : Prop :=
  ∀ (s : State) (pkt : List Bit),
    (pkt.length ≤ 88 → exec (.zwPacket pkt) s = .next { s with result := some (.fields none) }) ∧
    (88 < pkt.length → ∃ l : ZWaveLayout,
      exec (.zwPacket pkt) s = .next { s with result := some (.layout l) } ∧
      l.homeId.toNat = val ((pkt.drop 0).take 32) ∧ l.sourceId.toNat = val ((pkt.drop 32).take 8) ∧
      l.frameControl.toNat = val ((pkt.drop 40).take 16) ∧ l.length.toNat = val ((pkt.drop 56).take 8) ∧
      l.destinationId.toNat = val ((pkt.drop 64).take 8) ∧ l.commandClass.toNat = val ((pkt.drop 72).take 8) ∧
      l.command.toNat = val ((pkt.drop 80).take 8) ∧
      ∃ f, exec (.zwBuild pkt) s = .next { s with result := some (.fields (some f)) } ∧ f.layout = l)

/-- CHK.XOR: the exclusive or of all bytes from seed 0xFF, in whatever order they come; the empty sequence gives the
seed (R220). -/
def Obligations.ChecksumIsOrderFree : Prop :=
  ∀ (s : State) (seq : List Byte), ∃ c : Byte,
    exec (.chkXor seq) s = .next { s with result := some (.byte c) } ∧
    (∀ i, i < 8 → c.getLsbD i = !((seq.map (fun b => (b.getLsbD i).toNat)).sum % 2 == 1)) ∧
    (∀ seq' : List Byte, seq'.Perm seq → exec (.chkXor seq') s = exec (.chkXor seq) s) ∧
    (seq = [] → c = 0xFF#8)

/-- CHK.RANGE and CHK.OK as their rules say, for every length field and every number of bytes received (R221, R222). R221
has at least 11 bytes received; that its formula holds for fewer is the model's choice (log entry 6). -/
def Obligations.ChecksumRangeAndFlag : Prop :=
  ∀ (s : State) (len : BitVec 8),
    (∀ n : Nat,
      (len = 0#8 → exec (.chkRange len n) s = .next { s with result := some (.nat 0) }) ∧
      (len ≠ 0#8 → exec (.chkRange len n) s = .next { s with result := some (.nat (min (len.toNat - 1) n)) })) ∧
    ∀ (bytes : List Byte) (crc : Byte),
      (1 ≤ len.toNat → ∀ last, bytes[len.toNat - 1]? = some last →
        exec (.chkOk bytes len crc) s = .next { s with result := some (.bool (decide (crc = last))) }) ∧
      (len.toNat = 0 ∨ bytes.length < len.toNat →
        exec (.chkOk bytes len crc) s = .next { s with result := some (.bool false) })

/-- CHK.FRAME on a bare byte sequence, and the identity that appending a sequence's checksum makes a frame that passes,
whose bytes together XOR to 0xFF (R224, R226). -/
def Obligations.AppendedChecksumPasses : Prop :=
  ∀ (s : State) (seq : List Byte),
    (∀ last : Byte, exec (.chkFrame (seq ++ [last])) s =
      .next { s with result := some (.checked (xorSum seq) (decide (xorSum seq = last))) }) ∧
    (seq ++ [xorSum seq]).foldl (· ^^^ ·) 0#8 = 0xFF#8

/-- The checksum of a built frame is CHK.FRAME of its first `length` bytes whenever that many were received (R224). -/
def Obligations.FrameChecksumIsOfItsFirstLengthBytes : Prop :=
  ∀ (s : State) (pkt : List Bit), 88 < pkt.length →
    1 ≤ (buildFrame pkt).length.toNat → (buildFrame pkt).length.toNat ≤ (packBytes pkt).length →
    exec (.chkFrame ((packBytes pkt).take (buildFrame pkt).length.toNat)) s =
      .next { s with result := some (.checked (buildFrame pkt).crc (buildFrame pkt).crcOk) }

/-! ## Outputs -/

/-- EMIT.DB, EMIT.ZW and EMIT.FAIL put their operand into the step's outputs and change nothing else (R245, R246,
R249); the ports carry the fields of the same name, and the valid port of an absent output is 0 (R104, R306). That EMIT.ZW
takes a payload of more than 93 bytes and EMIT.FAIL a number above 88 is the model's choice (log entry 6), and that the
ports are a view of the outputs too (log entry 21). -/
def Obligations.EmissionsReachTheOutputs : Prop :=
  (∀ (s : State),
    (∀ f, exec (.emitDb f) s = .next { s with out := { s.out with doorbell := some f } }) ∧
    (∀ f, exec (.emitZw f) s = .next { s with out := { s.out with zwave := some f } }) ∧
    (∀ n, exec (.emitFail n) s = .next { s with out := { s.out with fail := some n } })) ∧
  ∀ (o : Outputs),
    (∀ f, o.doorbell = some f →
      portDbValid o = true ∧ portDbButtonId o = some f.buttonId ∧ portDbTone o = some f.tone) ∧
    (∀ f, o.zwave = some f → f.payload.length ≤ 93 →
      portZwValid o = true ∧ (portZwPayloadLen o).map BitVec.toNat = some f.payload.length ∧
      (∀ i, i < f.payload.length → portZwPayload o i = f.payload[i]?) ∧
      portZwHomeId o = some f.homeId ∧ portZwSourceId o = some f.sourceId ∧
      portZwFrameControl o = some f.frameControl ∧ portZwLength o = some f.length ∧
      portZwDestinationId o = some f.destinationId ∧ portZwCommandClass o = some f.commandClass ∧
      portZwCommand o = some f.command ∧ portZwCrc o = some f.crc ∧ portZwCrcOk o = some f.crcOk) ∧
    (∀ n, o.fail = some n → n ≤ 88 →
      portZwFailValid o = true ∧ (portZwFailBits o).map BitVec.toNat = some n) ∧
    (o.doorbell = none → portDbValid o = false) ∧
    (o.zwave = none → portZwValid o = false) ∧
    (o.fail = none → portZwFailValid o = false)

/-! ## System operations -/

/-- RST from any state gives the reset state, every element of it, and empty outputs (R261, R306). The clauses on the
parameters, the words to come and the rest of the record are the model's (log entry 17). -/
def Obligations.ResetRestoresEveryElement : Prop :=
  ∀ (s : State), ∃ t : State, exec .rst s = .next t ∧
    t.pwLastLevel = false ∧ t.pwLastTransitionIndex = 0 ∧ t.pwIndex = s.params.indexOrigin ∧ t.pwAcc = [] ∧
    t.buf = [] ∧ t.syncState = .searchingPreamble ∧ t.sfdAttempts = 0 ∧ t.halted = false ∧
    t.params = s.params ∧ t.inputs = s.inputs ∧ t.out = ⟨none, none, none⟩ ∧ t.condsP = [] ∧ t.condsM = [] ∧
    t.result = none

/-- CANCEL sets `halted` and changes nothing else, and a step whose word asks for it does only that: symbols in the same
word are not accepted (R262). -/
def Obligations.CancelSetsHaltedOnly : Prop :=
  ∀ (s : State),
    exec .cancel s = .next { s with halted := true } ∧
    ∀ (iw : BitVec 6) (ws : List (BitVec 6)), s.inputs = iw :: ws →
      iw.getLsbD 5 = false → iw.getLsbD 4 = true →
      step s = .next { s with
        inputs := ws, halted := true, out := ⟨none, none, none⟩, condsP := [], condsM := [], result := none }

/-- IDLE changes no state element and emits nothing, and it is the step of every word with neither request nor valid bit;
a lane whose valid bit is 0 does not change while the other works (R263). -/
def Obligations.IdleChangesNothing : Prop :=
  ∀ (s : State),
    exec .idle s = .next s ∧
    ∀ (iw : BitVec 6) (ws : List (BitVec 6)), s.inputs = iw :: ws → iw.getLsbD 5 = false → iw.getLsbD 4 = false →
      (iw.getLsbD 3 = false → iw.getLsbD 1 = false → step s = .next { s with
        inputs := ws, out := ⟨none, none, none⟩, condsP := [], condsM := [], result := none }) ∧
      (∀ t, step s = .next t →
        (iw.getLsbD 1 = false →
          t.pwLastLevel = s.pwLastLevel ∧ t.pwLastTransitionIndex = s.pwLastTransitionIndex ∧
          t.pwIndex = s.pwIndex ∧ t.pwAcc = s.pwAcc ∧ t.out.doorbell = none) ∧
        (iw.getLsbD 3 = false →
          t.buf = s.buf ∧ t.syncState = s.syncState ∧ t.sfdAttempts = s.sfdAttempts ∧
          t.out.zwave = none ∧ t.out.fail = none))

/-- While halted, a step changes no state element unless it is a reset, and emits nothing (R266). -/
def Obligations.HaltedStepsChangeNothing : Prop :=
  ∀ (s : State) (iw : BitVec 6) (ws : List (BitVec 6)), s.halted = true → s.inputs = iw :: ws →
    iw.getLsbD 5 = false →
    step s = .next { s with
      inputs := ws, out := ⟨none, none, none⟩, condsP := [], condsM := [], result := none }

/-- Every word with its reset bit set resets, from any state, halted or not, whatever its other bits are: the reset
state with the words that follow (R260, R261; log entry 17). -/
def Obligations.ResetWordAlwaysResets : Prop :=
  ∀ (s : State) (iw : BitVec 6) (ws : List (BitVec 6)), s.inputs = iw :: ws → iw.getLsbD 5 = true →
    step s = .next { State.resetWith s.params with inputs := ws }

/-- BATCH is the sequence of its single-symbol steps: it ends in the state in which as many steps over the symbols'
input words end, but for the words and the returned value, which is the outputs of those steps in order and the number
of symbols consumed, all of them (R264; log entry 14). -/
def Obligations.BatchIsItsSingleSteps : Prop :=
  ∀ (s : State) (lane : Lane) (symbols : List Bit),
    ∃ (t : State) (outs : List Outputs),
      exec (.batch lane symbols) s = .next { t with result := some (.batch outs symbols.length) } ∧
      outs.length = symbols.length ∧
      (∀ k, k ≤ symbols.length → ∃ u : State,
        Host.Core.run Sys2Proof.core k { s with inputs := symbols.map (laneWord lane) } = .next u ∧
        (∀ j, k = j + 1 → outs[j]? = some u.out) ∧
        (k = symbols.length → { t with inputs := [], result := u.result } = u))

/-- Ownership: PW.SYM leaves lane M's elements and record as they were, MZ.SYM lane P's; both leave `halted`, the
parameters and the words to come (R29; the record and the words are the model's, log entries 1 and 2). -/
def Obligations.LanesOwnTheirState : Prop :=
  ∀ (s t : State) (b : Bit),
    (exec (.pwSym b) s = .next t →
      t.buf = s.buf ∧ t.syncState = s.syncState ∧ t.sfdAttempts = s.sfdAttempts ∧ t.condsM = s.condsM ∧
      t.out.zwave = s.out.zwave ∧ t.out.fail = s.out.fail ∧
      t.halted = s.halted ∧ t.params = s.params ∧ t.inputs = s.inputs ∧ t.result = s.result) ∧
    (exec (.mzSym b) s = .next t →
      t.pwLastLevel = s.pwLastLevel ∧ t.pwLastTransitionIndex = s.pwLastTransitionIndex ∧ t.pwIndex = s.pwIndex ∧
      t.pwAcc = s.pwAcc ∧ t.condsP = s.condsP ∧ t.out.doorbell = s.out.doorbell ∧
      t.halted = s.halted ∧ t.params = s.params ∧ t.inputs = s.inputs ∧ t.result = s.result)

/-- The order of the two lanes' symbols in one step cannot be seen: either order ends in the same state (R74). -/
def Obligations.LaneOrderIsImmaterial : Prop :=
  ∀ (s : State) (p m : Bit),
    andThen (exec (.pwSym p) s) (fun s1 => exec (.mzSym m) s1) =
      andThen (exec (.mzSym m) s) (fun s1 => exec (.pwSym p) s1)

/-- The symbol operations complete from every state, reachable or not: they never stop (R8, R260). -/
def Obligations.SymbolOperationsComplete : Prop :=
  ∀ (s : State) (b : Bit), (∃ t, exec (.pwSym b) s = .next t) ∧ (∃ t, exec (.mzSym b) s = .next t)

/-! ## The whole machine -/

/-- A step is total: every state and every input word has exactly one successor, and no step faults or is refused
(R260, R103; a state holds the word it meets next, log entry 1). -/
def Obligations.StepIsTotal : Prop :=
  ∀ (s : State), ∃ t : State, step s = .next t

/-- The invariants of R36, with the range of the limit, the one situation of a full buffer (R170) and the soundness of
the outputs (R104), are kept by every step. -/
def Obligations.StepKeepsTheInvariants : Prop :=
  ∀ (s t : State), s.Inv → step s = .next t → t.Inv

/-- The reset state has the invariants, for every admissible choice of the two parameters. -/
def Obligations.ResetHasTheInvariants : Prop :=
  ∀ (p : Params), 1 ≤ p.sfdAttemptLimit → (State.resetWith p).Inv

/-- No step changes a parameter, and every step takes exactly one of the words to come (R32, R8; log entries 1 and 3). -/
def Obligations.ParametersNeverChange : Prop :=
  ∀ (s t : State), step s = .next t → t.params = s.params ∧ t.inputs = s.inputs.drop 1

/-- Nothing of a step's record reaches the next step: outputs, conditions and returned values of the step before make no
difference (R35, R247, R248; log entry 2). -/
def Obligations.StepForgetsTheRecord : Prop :=
  ∀ (s : State) (o : Outputs) (cp cm : List Condition) (r : Option Value),
    step { s with out := o, condsP := cp, condsM := cm, result := r } = step s

/-- No output depends on the index origin: two states that differ in the stream indices only, with the same elapsed
samples unless no edge has come yet, go on to two such states with the same outputs; and two reset states with
different origins are such states (R309, 93_implementation_defined.md U3). -/
def Obligations.OutputsDoNotDependOnTheOrigin : Prop :=
  (∀ (s t s' : State), s.SameButIndices t → step s = .next s' →
    ∃ t', step t = .next t' ∧ s'.SameButIndices t' ∧ t'.out = s'.out) ∧
  ∀ (limit o1 o2 : Nat), (State.resetWith ⟨limit, o1⟩).SameButIndices (State.resetWith ⟨limit, o2⟩)

/-- What a frame's checksum says changes nothing in the block (R225). The MZ.SYM whose chip completes the delimiter match,
with a packet of more than 88 bits behind the delimiter, emits that packet's frame whatever its `crc_ok` is, and the
next state but for its outputs is the same for both values; so is that of FRAME.CAPTURE by itself. ChecksumMismatch is
recorded nowhere (R222); that it is shown among lane M's conditions, as R279 names it, by a view of the emitted frame is
the model's (log entry 12). -/
def Obligations.MismatchIsReportedNotRejected : Prop :=
  (∀ (s : State) (b : Bit) (w : Memory), s.halted = false → s.syncState = .searchingDelimiter →
    w = (if s.buf.length = 1680 then s.buf.drop 1 else s.buf) ++ [b] → w.length = 1680 → w.take 16 = Config.sfd →
    88 < (packetOf (manchPairs w) (terminator (manchPairs w))).length →
    ∃ t f, exec (.mzSym b) s = .next t ∧ f = buildFrame (packetOf (manchPairs w) (terminator (manchPairs w))) ∧
      t = { s with
        buf := w.drop (2 * terminator (manchPairs w)), syncState := .searchingPreamble, sfdAttempts := 0,
        out := { s.out with zwave := some f } } ∧
      t.conditionsM = s.condsM ++ (if f.crcOk then [] else [.checksumMismatch f.crc])) ∧
  ∀ (s : State), s.buf.length = 1680 → s.buf.take 16 = Config.sfd →
    88 < (packetOf (manchPairs s.buf) (terminator (manchPairs s.buf))).length →
    ∃ t f, exec .frameCapture s = .next t ∧ t.out.zwave = some f ∧ t.condsM = s.condsM ∧
      t.conditionsM = s.condsM ++ (if f.crcOk then [] else [.checksumMismatch f.crc]) ∧
      { t with out := s.out } = { s with buf := s.buf.drop (2 * terminator (manchPairs s.buf)) }
end

