-- ==== Sys2Proof/Laws/Config.lean ====
section
/-! SUPPORT. The parameters' numbers (R7), as the simp set's one spelling of them. -/

namespace Sys2Proof

namespace Config

/-- The derived parameters are what R7 derives them to be. -/
theorem derived_parameters : cap = 8 * (mtu + margin) ∧ winBits = cap / 2 ∧ pktMaxBits = winBits - skipBits ∧
    payloadMax = pktMaxBits / 8 - 11 := by decide

@[simp] theorem cap_eq : cap = 1680 := rfl
@[simp] theorem preLen_eq : preLen = 32 := rfl
@[simp] theorem sfdLen_eq : sfdLen = 16 := rfl
@[simp] theorem skipBits_eq : skipBits = 8 := rfl
@[simp] theorem headerBits_eq : headerBits = 88 := rfl
@[simp] theorem shortMax_eq : shortMax = 4 := rfl
@[simp] theorem resyncMin_eq : resyncMin = 50 := rfl
@[simp] theorem frameBits_eq : frameBits = 13 := rfl
@[simp] theorem winBits_eq : winBits = 840 := rfl
@[simp] theorem pktMaxBits_eq : pktMaxBits = 832 := rfl
@[simp] theorem payloadMax_eq : payloadMax = 93 := rfl
@[simp] theorem preamble_length : preamble.length = 32 := rfl
@[simp] theorem sfd_length : sfd.length = 16 := rfl

end Config

end Sys2Proof
end

