-- ==== Sys2Proof/Laws/State.lean ====
section
/-! SUPPORT. What each named update of the state leaves in each field: one lemma a field and an update, so that no proof
unfolds a record update. -/

namespace Sys2Proof

namespace Machine

@[simp] theorem returning_pwLastLevel (s : State) (v : Value) : (s.returning v).pwLastLevel = s.pwLastLevel := rfl
@[simp] theorem returning_pwLastTransitionIndex (s : State) (v : Value) : (s.returning v).pwLastTransitionIndex = s.pwLastTransitionIndex := rfl
@[simp] theorem returning_pwIndex (s : State) (v : Value) : (s.returning v).pwIndex = s.pwIndex := rfl
@[simp] theorem returning_pwAcc (s : State) (v : Value) : (s.returning v).pwAcc = s.pwAcc := rfl
@[simp] theorem returning_buf (s : State) (v : Value) : (s.returning v).buf = s.buf := rfl
@[simp] theorem returning_syncState (s : State) (v : Value) : (s.returning v).syncState = s.syncState := rfl
@[simp] theorem returning_sfdAttempts (s : State) (v : Value) : (s.returning v).sfdAttempts = s.sfdAttempts := rfl
@[simp] theorem returning_halted (s : State) (v : Value) : (s.returning v).halted = s.halted := rfl
@[simp] theorem returning_params (s : State) (v : Value) : (s.returning v).params = s.params := rfl
@[simp] theorem returning_inputs (s : State) (v : Value) : (s.returning v).inputs = s.inputs := rfl
@[simp] theorem returning_out (s : State) (v : Value) : (s.returning v).out = s.out := rfl
@[simp] theorem returning_condsP (s : State) (v : Value) : (s.returning v).condsP = s.condsP := rfl
@[simp] theorem returning_condsM (s : State) (v : Value) : (s.returning v).condsM = s.condsM := rfl
@[simp] theorem returning_result (s : State) (v : Value) : (s.returning v).result = some v := rfl

@[simp] theorem emitDoorbell_pwLastLevel (f : DoorbellFrame) (s : State) : (emitDoorbell f s).pwLastLevel = s.pwLastLevel := rfl
@[simp] theorem emitDoorbell_pwLastTransitionIndex (f : DoorbellFrame) (s : State) : (emitDoorbell f s).pwLastTransitionIndex = s.pwLastTransitionIndex := rfl
@[simp] theorem emitDoorbell_pwIndex (f : DoorbellFrame) (s : State) : (emitDoorbell f s).pwIndex = s.pwIndex := rfl
@[simp] theorem emitDoorbell_pwAcc (f : DoorbellFrame) (s : State) : (emitDoorbell f s).pwAcc = s.pwAcc := rfl
@[simp] theorem emitDoorbell_buf (f : DoorbellFrame) (s : State) : (emitDoorbell f s).buf = s.buf := rfl
@[simp] theorem emitDoorbell_syncState (f : DoorbellFrame) (s : State) : (emitDoorbell f s).syncState = s.syncState := rfl
@[simp] theorem emitDoorbell_sfdAttempts (f : DoorbellFrame) (s : State) : (emitDoorbell f s).sfdAttempts = s.sfdAttempts := rfl
@[simp] theorem emitDoorbell_halted (f : DoorbellFrame) (s : State) : (emitDoorbell f s).halted = s.halted := rfl
@[simp] theorem emitDoorbell_params (f : DoorbellFrame) (s : State) : (emitDoorbell f s).params = s.params := rfl
@[simp] theorem emitDoorbell_inputs (f : DoorbellFrame) (s : State) : (emitDoorbell f s).inputs = s.inputs := rfl
@[simp] theorem emitDoorbell_out (f : DoorbellFrame) (s : State) : (emitDoorbell f s).out = { s.out with doorbell := some f } := rfl
@[simp] theorem emitDoorbell_condsP (f : DoorbellFrame) (s : State) : (emitDoorbell f s).condsP = s.condsP := rfl
@[simp] theorem emitDoorbell_condsM (f : DoorbellFrame) (s : State) : (emitDoorbell f s).condsM = s.condsM := rfl
@[simp] theorem emitDoorbell_result (f : DoorbellFrame) (s : State) : (emitDoorbell f s).result = s.result := rfl

@[simp] theorem emitZWave_pwLastLevel (f : ZWaveFrame) (s : State) : (emitZWave f s).pwLastLevel = s.pwLastLevel := rfl
@[simp] theorem emitZWave_pwLastTransitionIndex (f : ZWaveFrame) (s : State) : (emitZWave f s).pwLastTransitionIndex = s.pwLastTransitionIndex := rfl
@[simp] theorem emitZWave_pwIndex (f : ZWaveFrame) (s : State) : (emitZWave f s).pwIndex = s.pwIndex := rfl
@[simp] theorem emitZWave_pwAcc (f : ZWaveFrame) (s : State) : (emitZWave f s).pwAcc = s.pwAcc := rfl
@[simp] theorem emitZWave_buf (f : ZWaveFrame) (s : State) : (emitZWave f s).buf = s.buf := rfl
@[simp] theorem emitZWave_syncState (f : ZWaveFrame) (s : State) : (emitZWave f s).syncState = s.syncState := rfl
@[simp] theorem emitZWave_sfdAttempts (f : ZWaveFrame) (s : State) : (emitZWave f s).sfdAttempts = s.sfdAttempts := rfl
@[simp] theorem emitZWave_halted (f : ZWaveFrame) (s : State) : (emitZWave f s).halted = s.halted := rfl
@[simp] theorem emitZWave_params (f : ZWaveFrame) (s : State) : (emitZWave f s).params = s.params := rfl
@[simp] theorem emitZWave_inputs (f : ZWaveFrame) (s : State) : (emitZWave f s).inputs = s.inputs := rfl
@[simp] theorem emitZWave_out (f : ZWaveFrame) (s : State) : (emitZWave f s).out = { s.out with zwave := some f } := rfl
@[simp] theorem emitZWave_condsP (f : ZWaveFrame) (s : State) : (emitZWave f s).condsP = s.condsP := rfl
@[simp] theorem emitZWave_condsM (f : ZWaveFrame) (s : State) : (emitZWave f s).condsM = s.condsM := rfl
@[simp] theorem emitZWave_result (f : ZWaveFrame) (s : State) : (emitZWave f s).result = s.result := rfl

@[simp] theorem emitFailure_pwLastLevel (n : Nat) (s : State) : (emitFailure n s).pwLastLevel = s.pwLastLevel := rfl
@[simp] theorem emitFailure_pwLastTransitionIndex (n : Nat) (s : State) : (emitFailure n s).pwLastTransitionIndex = s.pwLastTransitionIndex := rfl
@[simp] theorem emitFailure_pwIndex (n : Nat) (s : State) : (emitFailure n s).pwIndex = s.pwIndex := rfl
@[simp] theorem emitFailure_pwAcc (n : Nat) (s : State) : (emitFailure n s).pwAcc = s.pwAcc := rfl
@[simp] theorem emitFailure_buf (n : Nat) (s : State) : (emitFailure n s).buf = s.buf := rfl
@[simp] theorem emitFailure_syncState (n : Nat) (s : State) : (emitFailure n s).syncState = s.syncState := rfl
@[simp] theorem emitFailure_sfdAttempts (n : Nat) (s : State) : (emitFailure n s).sfdAttempts = s.sfdAttempts := rfl
@[simp] theorem emitFailure_halted (n : Nat) (s : State) : (emitFailure n s).halted = s.halted := rfl
@[simp] theorem emitFailure_params (n : Nat) (s : State) : (emitFailure n s).params = s.params := rfl
@[simp] theorem emitFailure_inputs (n : Nat) (s : State) : (emitFailure n s).inputs = s.inputs := rfl
@[simp] theorem emitFailure_out (n : Nat) (s : State) : (emitFailure n s).out = { s.out with fail := some n } := rfl
@[simp] theorem emitFailure_condsP (n : Nat) (s : State) : (emitFailure n s).condsP = s.condsP := rfl
@[simp] theorem emitFailure_condsM (n : Nat) (s : State) : (emitFailure n s).condsM = s.condsM := rfl
@[simp] theorem emitFailure_result (n : Nat) (s : State) : (emitFailure n s).result = s.result := rfl

@[simp] theorem beginStep_pwLastLevel (s : State) : (beginStep s).pwLastLevel = s.pwLastLevel := rfl
@[simp] theorem beginStep_pwLastTransitionIndex (s : State) : (beginStep s).pwLastTransitionIndex = s.pwLastTransitionIndex := rfl
@[simp] theorem beginStep_pwIndex (s : State) : (beginStep s).pwIndex = s.pwIndex := rfl
@[simp] theorem beginStep_pwAcc (s : State) : (beginStep s).pwAcc = s.pwAcc := rfl
@[simp] theorem beginStep_buf (s : State) : (beginStep s).buf = s.buf := rfl
@[simp] theorem beginStep_syncState (s : State) : (beginStep s).syncState = s.syncState := rfl
@[simp] theorem beginStep_sfdAttempts (s : State) : (beginStep s).sfdAttempts = s.sfdAttempts := rfl
@[simp] theorem beginStep_halted (s : State) : (beginStep s).halted = s.halted := rfl
@[simp] theorem beginStep_params (s : State) : (beginStep s).params = s.params := rfl
@[simp] theorem beginStep_inputs (s : State) : (beginStep s).inputs = s.inputs := rfl
@[simp] theorem beginStep_out (s : State) : (beginStep s).out = Outputs.none := rfl
@[simp] theorem beginStep_condsP (s : State) : (beginStep s).condsP = [] := rfl
@[simp] theorem beginStep_condsM (s : State) : (beginStep s).condsM = [] := rfl
@[simp] theorem beginStep_result (s : State) : (beginStep s).result = none := rfl

@[simp] theorem takeWord_pwLastLevel (s : State) : (takeWord s).pwLastLevel = s.pwLastLevel := rfl
@[simp] theorem takeWord_pwLastTransitionIndex (s : State) : (takeWord s).pwLastTransitionIndex = s.pwLastTransitionIndex := rfl
@[simp] theorem takeWord_pwIndex (s : State) : (takeWord s).pwIndex = s.pwIndex := rfl
@[simp] theorem takeWord_pwAcc (s : State) : (takeWord s).pwAcc = s.pwAcc := rfl
@[simp] theorem takeWord_buf (s : State) : (takeWord s).buf = s.buf := rfl
@[simp] theorem takeWord_syncState (s : State) : (takeWord s).syncState = s.syncState := rfl
@[simp] theorem takeWord_sfdAttempts (s : State) : (takeWord s).sfdAttempts = s.sfdAttempts := rfl
@[simp] theorem takeWord_halted (s : State) : (takeWord s).halted = s.halted := rfl
@[simp] theorem takeWord_params (s : State) : (takeWord s).params = s.params := rfl
@[simp] theorem takeWord_inputs (s : State) : (takeWord s).inputs = s.inputs.tail := rfl
@[simp] theorem takeWord_out (s : State) : (takeWord s).out = Outputs.none := rfl
@[simp] theorem takeWord_condsP (s : State) : (takeWord s).condsP = [] := rfl
@[simp] theorem takeWord_condsM (s : State) : (takeWord s).condsM = [] := rfl
@[simp] theorem takeWord_result (s : State) : (takeWord s).result = none := rfl

@[simp] theorem recordEdge_pwLastLevel (index : Nat) (level : Bit) (s : State) : (recordEdge index level s).pwLastLevel = level := rfl
@[simp] theorem recordEdge_pwLastTransitionIndex (index : Nat) (level : Bit) (s : State) : (recordEdge index level s).pwLastTransitionIndex = index := rfl
@[simp] theorem recordEdge_pwIndex (index : Nat) (level : Bit) (s : State) : (recordEdge index level s).pwIndex = s.pwIndex := rfl
@[simp] theorem recordEdge_pwAcc (index : Nat) (level : Bit) (s : State) : (recordEdge index level s).pwAcc = s.pwAcc := rfl
@[simp] theorem recordEdge_buf (index : Nat) (level : Bit) (s : State) : (recordEdge index level s).buf = s.buf := rfl
@[simp] theorem recordEdge_syncState (index : Nat) (level : Bit) (s : State) : (recordEdge index level s).syncState = s.syncState := rfl
@[simp] theorem recordEdge_sfdAttempts (index : Nat) (level : Bit) (s : State) : (recordEdge index level s).sfdAttempts = s.sfdAttempts := rfl
@[simp] theorem recordEdge_halted (index : Nat) (level : Bit) (s : State) : (recordEdge index level s).halted = s.halted := rfl
@[simp] theorem recordEdge_params (index : Nat) (level : Bit) (s : State) : (recordEdge index level s).params = s.params := rfl
@[simp] theorem recordEdge_inputs (index : Nat) (level : Bit) (s : State) : (recordEdge index level s).inputs = s.inputs := rfl
@[simp] theorem recordEdge_out (index : Nat) (level : Bit) (s : State) : (recordEdge index level s).out = s.out := rfl
@[simp] theorem recordEdge_condsP (index : Nat) (level : Bit) (s : State) : (recordEdge index level s).condsP = s.condsP := rfl
@[simp] theorem recordEdge_condsM (index : Nat) (level : Bit) (s : State) : (recordEdge index level s).condsM = s.condsM := rfl
@[simp] theorem recordEdge_result (index : Nat) (level : Bit) (s : State) : (recordEdge index level s).result = s.result := rfl

@[simp] theorem discardAcc_pwLastLevel (elapsed : Nat) (s : State) : (discardAcc elapsed s).pwLastLevel = s.pwLastLevel := rfl
@[simp] theorem discardAcc_pwLastTransitionIndex (elapsed : Nat) (s : State) : (discardAcc elapsed s).pwLastTransitionIndex = s.pwLastTransitionIndex := rfl
@[simp] theorem discardAcc_pwIndex (elapsed : Nat) (s : State) : (discardAcc elapsed s).pwIndex = s.pwIndex := rfl
@[simp] theorem discardAcc_pwAcc (elapsed : Nat) (s : State) : (discardAcc elapsed s).pwAcc = [] := rfl
@[simp] theorem discardAcc_buf (elapsed : Nat) (s : State) : (discardAcc elapsed s).buf = s.buf := rfl
@[simp] theorem discardAcc_syncState (elapsed : Nat) (s : State) : (discardAcc elapsed s).syncState = s.syncState := rfl
@[simp] theorem discardAcc_sfdAttempts (elapsed : Nat) (s : State) : (discardAcc elapsed s).sfdAttempts = s.sfdAttempts := rfl
@[simp] theorem discardAcc_halted (elapsed : Nat) (s : State) : (discardAcc elapsed s).halted = s.halted := rfl
@[simp] theorem discardAcc_params (elapsed : Nat) (s : State) : (discardAcc elapsed s).params = s.params := rfl
@[simp] theorem discardAcc_inputs (elapsed : Nat) (s : State) : (discardAcc elapsed s).inputs = s.inputs := rfl
@[simp] theorem discardAcc_out (elapsed : Nat) (s : State) : (discardAcc elapsed s).out = s.out := rfl
@[simp] theorem discardAcc_condsP (elapsed : Nat) (s : State) : (discardAcc elapsed s).condsP = s.condsP ++ [.syncLoss elapsed] := rfl
@[simp] theorem discardAcc_condsM (elapsed : Nat) (s : State) : (discardAcc elapsed s).condsM = s.condsM := rfl
@[simp] theorem discardAcc_result (elapsed : Nat) (s : State) : (discardAcc elapsed s).result = s.result := rfl

@[simp] theorem appendBit_pwLastLevel (bit : Bit) (s : State) : (appendBit bit s).pwLastLevel = s.pwLastLevel := rfl
@[simp] theorem appendBit_pwLastTransitionIndex (bit : Bit) (s : State) : (appendBit bit s).pwLastTransitionIndex = s.pwLastTransitionIndex := rfl
@[simp] theorem appendBit_pwIndex (bit : Bit) (s : State) : (appendBit bit s).pwIndex = s.pwIndex := rfl
@[simp] theorem appendBit_pwAcc (bit : Bit) (s : State) : (appendBit bit s).pwAcc = s.pwAcc ++ [bit] := rfl
@[simp] theorem appendBit_buf (bit : Bit) (s : State) : (appendBit bit s).buf = s.buf := rfl
@[simp] theorem appendBit_syncState (bit : Bit) (s : State) : (appendBit bit s).syncState = s.syncState := rfl
@[simp] theorem appendBit_sfdAttempts (bit : Bit) (s : State) : (appendBit bit s).sfdAttempts = s.sfdAttempts := rfl
@[simp] theorem appendBit_halted (bit : Bit) (s : State) : (appendBit bit s).halted = s.halted := rfl
@[simp] theorem appendBit_params (bit : Bit) (s : State) : (appendBit bit s).params = s.params := rfl
@[simp] theorem appendBit_inputs (bit : Bit) (s : State) : (appendBit bit s).inputs = s.inputs := rfl
@[simp] theorem appendBit_out (bit : Bit) (s : State) : (appendBit bit s).out = s.out := rfl
@[simp] theorem appendBit_condsP (bit : Bit) (s : State) : (appendBit bit s).condsP = s.condsP := rfl
@[simp] theorem appendBit_condsM (bit : Bit) (s : State) : (appendBit bit s).condsM = s.condsM := rfl
@[simp] theorem appendBit_result (bit : Bit) (s : State) : (appendBit bit s).result = s.result := rfl

@[simp] theorem completeAcc_pwLastLevel (s : State) : (completeAcc s).pwLastLevel = s.pwLastLevel := rfl
@[simp] theorem completeAcc_pwLastTransitionIndex (s : State) : (completeAcc s).pwLastTransitionIndex = s.pwLastTransitionIndex := rfl
@[simp] theorem completeAcc_pwIndex (s : State) : (completeAcc s).pwIndex = s.pwIndex := rfl
@[simp] theorem completeAcc_pwAcc (s : State) : (completeAcc s).pwAcc = [] := rfl
@[simp] theorem completeAcc_buf (s : State) : (completeAcc s).buf = s.buf := rfl
@[simp] theorem completeAcc_syncState (s : State) : (completeAcc s).syncState = s.syncState := rfl
@[simp] theorem completeAcc_sfdAttempts (s : State) : (completeAcc s).sfdAttempts = s.sfdAttempts := rfl
@[simp] theorem completeAcc_halted (s : State) : (completeAcc s).halted = s.halted := rfl
@[simp] theorem completeAcc_params (s : State) : (completeAcc s).params = s.params := rfl
@[simp] theorem completeAcc_inputs (s : State) : (completeAcc s).inputs = s.inputs := rfl
@[simp] theorem completeAcc_out (s : State) : (completeAcc s).out = { s.out with doorbell := some (doorbellOf s.pwAcc) } := rfl
@[simp] theorem completeAcc_condsP (s : State) : (completeAcc s).condsP = s.condsP := rfl
@[simp] theorem completeAcc_condsM (s : State) : (completeAcc s).condsM = s.condsM := rfl
@[simp] theorem completeAcc_result (s : State) : (completeAcc s).result = s.result := rfl

@[simp] theorem evictHead_pwLastLevel (s : State) : (evictHead s).pwLastLevel = s.pwLastLevel := rfl
@[simp] theorem evictHead_pwLastTransitionIndex (s : State) : (evictHead s).pwLastTransitionIndex = s.pwLastTransitionIndex := rfl
@[simp] theorem evictHead_pwIndex (s : State) : (evictHead s).pwIndex = s.pwIndex := rfl
@[simp] theorem evictHead_pwAcc (s : State) : (evictHead s).pwAcc = s.pwAcc := rfl
@[simp] theorem evictHead_buf (s : State) : (evictHead s).buf = s.buf.drop 1 := rfl
@[simp] theorem evictHead_syncState (s : State) : (evictHead s).syncState = s.syncState := rfl
@[simp] theorem evictHead_sfdAttempts (s : State) : (evictHead s).sfdAttempts = s.sfdAttempts := rfl
@[simp] theorem evictHead_halted (s : State) : (evictHead s).halted = s.halted := rfl
@[simp] theorem evictHead_params (s : State) : (evictHead s).params = s.params := rfl
@[simp] theorem evictHead_inputs (s : State) : (evictHead s).inputs = s.inputs := rfl
@[simp] theorem evictHead_out (s : State) : (evictHead s).out = s.out := rfl
@[simp] theorem evictHead_condsP (s : State) : (evictHead s).condsP = s.condsP := rfl
@[simp] theorem evictHead_condsM (s : State) : (evictHead s).condsM = s.condsM := rfl
@[simp] theorem evictHead_result (s : State) : (evictHead s).result = s.result := rfl

@[simp] theorem removeHead_pwLastLevel (k : Nat) (s : State) : (removeHead k s).pwLastLevel = s.pwLastLevel := rfl
@[simp] theorem removeHead_pwLastTransitionIndex (k : Nat) (s : State) : (removeHead k s).pwLastTransitionIndex = s.pwLastTransitionIndex := rfl
@[simp] theorem removeHead_pwIndex (k : Nat) (s : State) : (removeHead k s).pwIndex = s.pwIndex := rfl
@[simp] theorem removeHead_pwAcc (k : Nat) (s : State) : (removeHead k s).pwAcc = s.pwAcc := rfl
@[simp] theorem removeHead_buf (k : Nat) (s : State) : (removeHead k s).buf = s.buf.drop k := rfl
@[simp] theorem removeHead_syncState (k : Nat) (s : State) : (removeHead k s).syncState = s.syncState := rfl
@[simp] theorem removeHead_sfdAttempts (k : Nat) (s : State) : (removeHead k s).sfdAttempts = s.sfdAttempts := rfl
@[simp] theorem removeHead_halted (k : Nat) (s : State) : (removeHead k s).halted = s.halted := rfl
@[simp] theorem removeHead_params (k : Nat) (s : State) : (removeHead k s).params = s.params := rfl
@[simp] theorem removeHead_inputs (k : Nat) (s : State) : (removeHead k s).inputs = s.inputs := rfl
@[simp] theorem removeHead_out (k : Nat) (s : State) : (removeHead k s).out = s.out := rfl
@[simp] theorem removeHead_condsP (k : Nat) (s : State) : (removeHead k s).condsP = s.condsP := rfl
@[simp] theorem removeHead_condsM (k : Nat) (s : State) : (removeHead k s).condsM = s.condsM := rfl
@[simp] theorem removeHead_result (k : Nat) (s : State) : (removeHead k s).result = s.result := rfl

@[simp] theorem enterSync_pwLastLevel (st : SyncState) (s : State) : (enterSync st s).pwLastLevel = s.pwLastLevel := rfl
@[simp] theorem enterSync_pwLastTransitionIndex (st : SyncState) (s : State) : (enterSync st s).pwLastTransitionIndex = s.pwLastTransitionIndex := rfl
@[simp] theorem enterSync_pwIndex (st : SyncState) (s : State) : (enterSync st s).pwIndex = s.pwIndex := rfl
@[simp] theorem enterSync_pwAcc (st : SyncState) (s : State) : (enterSync st s).pwAcc = s.pwAcc := rfl
@[simp] theorem enterSync_buf (st : SyncState) (s : State) : (enterSync st s).buf = s.buf := rfl
@[simp] theorem enterSync_syncState (st : SyncState) (s : State) : (enterSync st s).syncState = st := rfl
@[simp] theorem enterSync_sfdAttempts (st : SyncState) (s : State) : (enterSync st s).sfdAttempts = 0 := rfl
@[simp] theorem enterSync_halted (st : SyncState) (s : State) : (enterSync st s).halted = s.halted := rfl
@[simp] theorem enterSync_params (st : SyncState) (s : State) : (enterSync st s).params = s.params := rfl
@[simp] theorem enterSync_inputs (st : SyncState) (s : State) : (enterSync st s).inputs = s.inputs := rfl
@[simp] theorem enterSync_out (st : SyncState) (s : State) : (enterSync st s).out = s.out := rfl
@[simp] theorem enterSync_condsP (st : SyncState) (s : State) : (enterSync st s).condsP = s.condsP := rfl
@[simp] theorem enterSync_condsM (st : SyncState) (s : State) : (enterSync st s).condsM = s.condsM := rfl
@[simp] theorem enterSync_result (st : SyncState) (s : State) : (enterSync st s).result = s.result := rfl

@[simp] theorem bailout_pwLastLevel (s : State) : (bailout s).pwLastLevel = s.pwLastLevel := rfl
@[simp] theorem bailout_pwLastTransitionIndex (s : State) : (bailout s).pwLastTransitionIndex = s.pwLastTransitionIndex := rfl
@[simp] theorem bailout_pwIndex (s : State) : (bailout s).pwIndex = s.pwIndex := rfl
@[simp] theorem bailout_pwAcc (s : State) : (bailout s).pwAcc = s.pwAcc := rfl
@[simp] theorem bailout_buf (s : State) : (bailout s).buf = s.buf := rfl
@[simp] theorem bailout_syncState (s : State) : (bailout s).syncState = .searchingPreamble := rfl
@[simp] theorem bailout_sfdAttempts (s : State) : (bailout s).sfdAttempts = 0 := rfl
@[simp] theorem bailout_halted (s : State) : (bailout s).halted = s.halted := rfl
@[simp] theorem bailout_params (s : State) : (bailout s).params = s.params := rfl
@[simp] theorem bailout_inputs (s : State) : (bailout s).inputs = s.inputs := rfl
@[simp] theorem bailout_out (s : State) : (bailout s).out = s.out := rfl
@[simp] theorem bailout_condsP (s : State) : (bailout s).condsP = s.condsP := rfl
@[simp] theorem bailout_condsM (s : State) : (bailout s).condsM = s.condsM := rfl
@[simp] theorem bailout_result (s : State) : (bailout s).result = s.result := rfl

@[simp] theorem setHalted_pwLastLevel (s : State) : (setHalted s).pwLastLevel = s.pwLastLevel := rfl
@[simp] theorem setHalted_pwLastTransitionIndex (s : State) : (setHalted s).pwLastTransitionIndex = s.pwLastTransitionIndex := rfl
@[simp] theorem setHalted_pwIndex (s : State) : (setHalted s).pwIndex = s.pwIndex := rfl
@[simp] theorem setHalted_pwAcc (s : State) : (setHalted s).pwAcc = s.pwAcc := rfl
@[simp] theorem setHalted_buf (s : State) : (setHalted s).buf = s.buf := rfl
@[simp] theorem setHalted_syncState (s : State) : (setHalted s).syncState = s.syncState := rfl
@[simp] theorem setHalted_sfdAttempts (s : State) : (setHalted s).sfdAttempts = s.sfdAttempts := rfl
@[simp] theorem setHalted_halted (s : State) : (setHalted s).halted = true := rfl
@[simp] theorem setHalted_params (s : State) : (setHalted s).params = s.params := rfl
@[simp] theorem setHalted_inputs (s : State) : (setHalted s).inputs = s.inputs := rfl
@[simp] theorem setHalted_out (s : State) : (setHalted s).out = s.out := rfl
@[simp] theorem setHalted_condsP (s : State) : (setHalted s).condsP = s.condsP := rfl
@[simp] theorem setHalted_condsM (s : State) : (setHalted s).condsM = s.condsM := rfl
@[simp] theorem setHalted_result (s : State) : (setHalted s).result = s.result := rfl

@[simp] theorem pushSymbol_pwLastLevel (b : Bit) (s : State) : (pushSymbol b s).pwLastLevel = s.pwLastLevel := by
  unfold pushSymbol; split <;> rfl
@[simp] theorem pushSymbol_pwLastTransitionIndex (b : Bit) (s : State) : (pushSymbol b s).pwLastTransitionIndex = s.pwLastTransitionIndex := by
  unfold pushSymbol; split <;> rfl
@[simp] theorem pushSymbol_pwIndex (b : Bit) (s : State) : (pushSymbol b s).pwIndex = s.pwIndex := by
  unfold pushSymbol; split <;> rfl
@[simp] theorem pushSymbol_pwAcc (b : Bit) (s : State) : (pushSymbol b s).pwAcc = s.pwAcc := by
  unfold pushSymbol; split <;> rfl
@[simp] theorem pushSymbol_buf (b : Bit) (s : State) :
    (pushSymbol b s).buf = (if s.buf.length = Config.cap then s.buf.drop 1 else s.buf) ++ [b] := by
  unfold pushSymbol; split <;> rfl
@[simp] theorem pushSymbol_syncState (b : Bit) (s : State) : (pushSymbol b s).syncState = s.syncState := by
  unfold pushSymbol; split <;> rfl
@[simp] theorem pushSymbol_sfdAttempts (b : Bit) (s : State) : (pushSymbol b s).sfdAttempts = s.sfdAttempts := by
  unfold pushSymbol; split <;> rfl
@[simp] theorem pushSymbol_halted (b : Bit) (s : State) : (pushSymbol b s).halted = s.halted := by
  unfold pushSymbol; split <;> rfl
@[simp] theorem pushSymbol_params (b : Bit) (s : State) : (pushSymbol b s).params = s.params := by
  unfold pushSymbol; split <;> rfl
@[simp] theorem pushSymbol_inputs (b : Bit) (s : State) : (pushSymbol b s).inputs = s.inputs := by
  unfold pushSymbol; split <;> rfl
@[simp] theorem pushSymbol_out (b : Bit) (s : State) : (pushSymbol b s).out = s.out := by
  unfold pushSymbol; split <;> rfl
@[simp] theorem pushSymbol_condsP (b : Bit) (s : State) : (pushSymbol b s).condsP = s.condsP := by
  unfold pushSymbol; split <;> rfl
@[simp] theorem pushSymbol_condsM (b : Bit) (s : State) : (pushSymbol b s).condsM = s.condsM := by
  unfold pushSymbol; split <;> rfl
@[simp] theorem pushSymbol_result (b : Bit) (s : State) : (pushSymbol b s).result = s.result := by
  unfold pushSymbol; split <;> rfl

@[simp] theorem raise_pwLastLevel (c : Condition) (s : State) : (raise c s).pwLastLevel = s.pwLastLevel := by cases c <;> rfl
@[simp] theorem raise_pwLastTransitionIndex (c : Condition) (s : State) : (raise c s).pwLastTransitionIndex = s.pwLastTransitionIndex := by cases c <;> rfl
@[simp] theorem raise_pwIndex (c : Condition) (s : State) : (raise c s).pwIndex = s.pwIndex := by cases c <;> rfl
@[simp] theorem raise_pwAcc (c : Condition) (s : State) : (raise c s).pwAcc = s.pwAcc := by cases c <;> rfl
@[simp] theorem raise_buf (c : Condition) (s : State) : (raise c s).buf = s.buf := by cases c <;> rfl
@[simp] theorem raise_syncState (c : Condition) (s : State) : (raise c s).syncState = s.syncState := by cases c <;> rfl
@[simp] theorem raise_sfdAttempts (c : Condition) (s : State) : (raise c s).sfdAttempts = s.sfdAttempts := by cases c <;> rfl
@[simp] theorem raise_halted (c : Condition) (s : State) : (raise c s).halted = s.halted := by cases c <;> rfl
@[simp] theorem raise_params (c : Condition) (s : State) : (raise c s).params = s.params := by cases c <;> rfl
@[simp] theorem raise_inputs (c : Condition) (s : State) : (raise c s).inputs = s.inputs := by cases c <;> rfl
@[simp] theorem raise_out (c : Condition) (s : State) : (raise c s).out = s.out := by cases c <;> rfl
@[simp] theorem raise_result (c : Condition) (s : State) : (raise c s).result = s.result := by cases c <;> rfl
@[simp] theorem raise_patternMiss_condsP (p : Pattern) (s : State) : (raise (.patternMiss p) s).condsP = s.condsP := rfl
@[simp] theorem raise_patternMiss_condsM (p : Pattern) (s : State) :
    (raise (.patternMiss p) s).condsM = s.condsM ++ [.patternMiss p] := rfl
@[simp] theorem raise_structuralShort_condsP (n : Nat) (s : State) :
    (raise (.structuralShort n) s).condsP = s.condsP := rfl
@[simp] theorem raise_structuralShort_condsM (n : Nat) (s : State) :
    (raise (.structuralShort n) s).condsM = s.condsM ++ [.structuralShort n] := rfl
@[simp] theorem raise_syncLoss_condsP (n : Nat) (s : State) :
    (raise (.syncLoss n) s).condsP = s.condsP ++ [.syncLoss n] := rfl
@[simp] theorem raise_syncLoss_condsM (n : Nat) (s : State) : (raise (.syncLoss n) s).condsM = s.condsM := rfl

@[simp] theorem resetElements_pwLastLevel (s : State) : (resetElements s).pwLastLevel = (State.resetWith s.params).pwLastLevel := rfl
@[simp] theorem resetElements_pwLastTransitionIndex (s : State) : (resetElements s).pwLastTransitionIndex = (State.resetWith s.params).pwLastTransitionIndex := rfl
@[simp] theorem resetElements_pwIndex (s : State) : (resetElements s).pwIndex = s.params.indexOrigin := rfl
@[simp] theorem resetElements_pwAcc (s : State) : (resetElements s).pwAcc = (State.resetWith s.params).pwAcc := rfl
@[simp] theorem resetElements_buf (s : State) : (resetElements s).buf = (State.resetWith s.params).buf := rfl
@[simp] theorem resetElements_syncState (s : State) : (resetElements s).syncState = (State.resetWith s.params).syncState := rfl
@[simp] theorem resetElements_sfdAttempts (s : State) : (resetElements s).sfdAttempts = (State.resetWith s.params).sfdAttempts := rfl
@[simp] theorem resetElements_halted (s : State) : (resetElements s).halted = (State.resetWith s.params).halted := rfl
@[simp] theorem resetElements_params (s : State) : (resetElements s).params = s.params := rfl
@[simp] theorem resetElements_inputs (s : State) : (resetElements s).inputs = s.inputs := rfl
@[simp] theorem resetElements_out (s : State) : (resetElements s).out = (State.resetWith s.params).out := rfl
@[simp] theorem resetElements_condsP (s : State) : (resetElements s).condsP = (State.resetWith s.params).condsP := rfl
@[simp] theorem resetElements_condsM (s : State) : (resetElements s).condsM = (State.resetWith s.params).condsM := rfl
@[simp] theorem resetElements_result (s : State) : (resetElements s).result = (State.resetWith s.params).result := rfl

end Machine

end Sys2Proof
end

