-- ==== Sys2Proof/Laws/Memory.lean ====
section
/-! SUPPORT. The memory laws: what a read gives, what an append and a removal leave at each address, and that every
memory operation keeps the form `Memory.wf`. -/

namespace Sys2Proof

namespace Machine

/-- A read answers exactly when its addresses exist, and then the symbols there (R61). -/
theorem memRead_eq_some {mem : Memory} {addr n : Nat} {w : List Bit} :
    memRead mem addr n = some w ↔ addr + n ≤ mem.length ∧ w = (mem.drop addr).take n := by
  unfold memRead
  split
  · constructor
    · intro h; exact ⟨‹_›, (Option.some.inj h).symm⟩
    · rintro ⟨-, rfl⟩; rfl
  · constructor
    · intro h; cases h
    · rintro ⟨h, -⟩; contradiction

/-- The leading window of a memory long enough (R168). -/
theorem memRead_leading {mem : Memory} {n : Nat} (h : n ≤ mem.length) : memRead mem 0 n = some (mem.take n) := by
  rw [memRead_eq_some]; exact ⟨by omega, by simp⟩

/-- A read gives as many symbols as asked for. -/
theorem memRead_length {mem : Memory} {addr n : Nat} {w : List Bit} (h : memRead mem addr n = some w) :
    w.length = n := by
  obtain ⟨h1, rfl⟩ := memRead_eq_some.1 h
  simp only [List.length_take, List.length_drop]; omega

/-- An append leaves every address that existed as it was (R62: no symbol is overwritten). -/
theorem memAt_append_old {mem : Memory} {a : Nat} (b : Bit) (h : a < mem.length) :
    memAt (memAppend mem b) a = memAt mem a := by
  exact List.getElem?_append_left h

/-- An append puts its symbol at the new last address (R62). -/
theorem memAt_append_new (mem : Memory) (b : Bit) : memAt (memAppend mem b) mem.length = some b := by
  simp [memAt, memAppend]

/-- A removal renumbers the symbols that stay downward by the number removed (R60). -/
theorem memAt_dropHead (mem : Memory) (k a : Nat) : memAt (memDropHead mem k) a = memAt mem (k + a) := by
  simp [memAt, memDropHead]

/-- Removal keeps the form. -/
theorem memDropHead_wf {mem : Memory} (k : Nat) (h : mem.wf) : (memDropHead mem k).wf := by
  simp only [Memory.wf, memDropHead, List.length_drop] at *; omega

/-- An append below capacity keeps the form. -/
theorem memAppend_wf {mem : Memory} (b : Bit) (h : mem.length < Config.cap) : (memAppend mem b).wf := by
  simp only [Memory.wf, memAppend, List.length_append, List.length_singleton]; omega

/-- The length after a push: one more, but never above capacity (R165). -/
theorem pushSymbol_length (b : Bit) (s : State) (h : s.buf.length ≤ Config.cap) :
    (pushSymbol b s).buf.length = min (s.buf.length + 1) Config.cap := by
  have hc := Config.cap_eq
  rw [pushSymbol_buf]
  split <;> simp only [List.length_append, List.length_drop, List.length_singleton] <;> omega

/-- A push keeps the form. -/
theorem pushSymbol_wf (b : Bit) (s : State) (h : s.buf.wf) : (pushSymbol b s).buf.wf := by
  have := pushSymbol_length b s h
  simp only [Memory.wf] at *; omega

/-- An eviction keeps the form. -/
theorem evictHead_wf (s : State) (h : s.buf.wf) : (evictHead s).buf.wf := memDropHead_wf 1 h

/-- A removal of any number of symbols keeps the form. -/
theorem removeHead_wf (k : Nat) (s : State) (h : s.buf.wf) : (removeHead k s).buf.wf := memDropHead_wf k h

/-- The memory after reset has the form. -/
theorem reset_buf_wf : State.reset.buf.wf := by decide

end Machine

end Sys2Proof
end

