-- ==== Sys2Proof/Laws/Sequences.lean ====
section
/-! SUPPORT. What the pure functions on sequences give: lengths, elements, and the values of bit sequences. -/

namespace Sys2Proof

namespace Machine

/-! ## Values of bit sequences (R9) -/

/-- `val` of `n` bits is below `2^n`. -/
theorem val_lt (q : List Bit) : val q < 2 ^ q.length := by
  induction q with
  | nil => simp [val]
  | cons b q ih =>
    have : b.toNat ≤ 1 := by cases b <;> simp
    simp only [val, List.length_cons, Nat.pow_succ]
    nlinarith [Nat.zero_le (val q), Nat.pos_of_ne_zero (Nat.ne_of_gt (Nat.two_pow_pos q.length))]

/-- `val` of a concatenation. -/
theorem val_append (q r : List Bit) : val (q ++ r) = val q * 2 ^ r.length + val r := by
  induction q with
  | nil => simp [val]
  | cons b q ih =>
    simp only [List.cons_append, val, ih, List.length_append, Nat.pow_add]
    ring

/-- A slice of a sequence long enough has the length of its bounds. -/
theorem slice_length {α : Type} (q : List α) {lo hi : Nat} (h : hi < q.length) :
    (slice q lo hi).length = hi + 1 - lo := by
  simp only [slice, List.length_take, List.length_drop]; omega

/-- A byte packed from eight bits has their value (R215). -/
theorem packByte_toNat (b7 b6 b5 b4 b3 b2 b1 b0 : Bit) :
    (packByte b7 b6 b5 b4 b3 b2 b1 b0).toNat = val [b7, b6, b5, b4, b3, b2, b1, b0] := by
  revert b7 b6 b5 b4 b3 b2 b1 b0; decide

/-! ## Manchester pairs (R152, R153) -/

/-- A decoded sequence has one value for every two chips (R152). -/
theorem manchPairs_length (w : List Bit) : (manchPairs w).length = w.length / 2 := by
  induction w using manchPairs.induct with
  | case1 a b rest ih => simp only [manchPairs, List.length_cons, ih]; omega
  | case2 w h =>
    match w, h with
    | [], _ => simp [manchPairs]
    | [_], _ => simp [manchPairs]
    | a :: b :: rest, h => exact absurd rfl (h a b rest)

/-- Value `k` is the pair of chips `2k` and `2k+1` (R152). -/
theorem manchPairs_getElem? (w : List Bit) (k : Nat) (a b : Bit) (ha : w[2 * k]? = some a) (hb : w[2 * k + 1]? = some b) :
    (manchPairs w)[k]? = some (manchPair a b) := by
  induction w using manchPairs.induct generalizing k with
  | case1 x y rest ih =>
    cases k with
    | zero => simp at ha hb; simp [manchPairs, ha, hb]
    | succ k =>
      have e1 : 2 * (k + 1) = 2 * k + 1 + 1 := by ring
      have e2 : 2 * (k + 1) + 1 = 2 * k + 1 + 1 + 1 := by ring
      rw [e1] at ha; rw [e2] at hb
      simp only [List.getElem?_cons_succ] at ha hb
      simpa [manchPairs] using ih k ha hb
  | case2 w h =>
    match w, h with
    | [], _ => simp at ha
    | [_], _ => simp at hb
    | x :: y :: rest, h => exact absurd rfl (h x y rest)

/-- The chips of bits decode to those bits (R106, R150). -/
theorem manchPairs_chipsOf (bits : List Bit) (rest : List Bit) :
    manchPairs (chipsOf bits ++ rest) = bits.map (fun b => if b then Tri.one else Tri.zero) ++ manchPairs rest := by
  induction bits with
  | nil => simp [chipsOf]
  | cons b bits ih =>
    have : chipsOf (b :: bits) ++ rest = b :: (!b) :: (chipsOf bits ++ rest) := by simp [chipsOf]
    rw [this, manchPairs, ih]
    cases b <;> simp [manchPair]

/-- Chips are two to a bit. -/
theorem chipsOf_length (bits : List Bit) : (chipsOf bits).length = 2 * bits.length := by
  induction bits with
  | nil => rfl
  | cons b bits ih =>
    have : chipsOf (b :: bits) = b :: (!b) :: chipsOf bits := by simp [chipsOf]
    rw [this]; simp only [List.length_cons, ih]; ring

/-- The terminator is at most the length (R153). -/
theorem terminator_le (t : List Tri) : terminator t ≤ t.length := by
  induction t with
  | nil => simp [terminator]
  | cons x t ih => cases x <;> simp [terminator] <;> omega

/-- No value before the terminator is Invalid (R153). -/
theorem terminator_before {t : List Tri} {k : Nat} (h : k < terminator t) : t[k]? ≠ some .invalid := by
  induction t generalizing k with
  | nil => simp [terminator] at h
  | cons x t ih =>
    cases x with
    | invalid => simp [terminator] at h
    | _ =>
      cases k with
      | zero => simp
      | succ k => simp only [terminator] at h; simpa using ih (by omega)

/-- The value at a terminator that is not the end is Invalid (R153). -/
theorem terminator_at {t : List Tri} (h : terminator t < t.length) : t[terminator t]? = some .invalid := by
  induction t with
  | nil => simp at h
  | cons x t ih =>
    cases x with
    | invalid => simp [terminator]
    | _ => simp only [terminator, List.length_cons] at h ⊢; simpa using ih (by omega)

/-- Valid values in front move the terminator back by their number. -/
theorem terminator_append_bits (bits : List Bit) (t : List Tri) :
    terminator (bits.map (fun b => if b then Tri.one else Tri.zero) ++ t) = bits.length + terminator t := by
  induction bits with
  | nil => simp
  | cons b bits ih => cases b <;> simp [terminator, ih] <;> omega

/-- Bits made tri-state values and cut out again are those bits (R193). -/
theorem filterMap_triBit_bits (bits : List Bit) :
    (bits.map (fun b => if b then Tri.one else Tri.zero)).filterMap triBit = bits := by
  induction bits with
  | nil => rfl
  | cons b bits ih => rw [List.map_cons]; cases b <;> simpa [triBit] using ih

/-! ## Packing (R215) -/

/-- Bytes are one for every eight bits, the rest dropped (R215). -/
theorem packBytes_length (pkt : List Bit) : (packBytes pkt).length = pkt.length / 8 := by
  induction pkt using packBytes.induct with
  | case1 b7 b6 b5 b4 b3 b2 b1 b0 rest ih => simp only [packBytes, List.length_cons, ih]; omega
  | case2 pkt h =>
    have hl : pkt.length < 8 := by
      by_contra hge
      match pkt, h with
      | b7 :: b6 :: b5 :: b4 :: b3 :: b2 :: b1 :: b0 :: rest, h => exact h b7 b6 b5 b4 b3 b2 b1 b0 rest rfl
      | [], _ => simp at hge
      | [_], _ => simp at hge
      | [_, _], _ => simp at hge
      | [_, _, _], _ => simp at hge
      | [_, _, _, _], _ => simp at hge
      | [_, _, _, _, _], _ => simp at hge
      | [_, _, _, _, _, _], _ => simp at hge
      | [_, _, _, _, _, _, _], _ => simp at hge
    unfold packBytes
    split
    · exact absurd rfl (h _ _ _ _ _ _ _ _ _)
    · simp; omega

/-- Byte `j` is the value of bits `8j .. 8j+7`, most significant first (R215). -/
theorem packBytes_getElem? (pkt : List Bit) (j : Nat) (h : 8 * j + 8 ≤ pkt.length) :
    (packBytes pkt)[j]? = some (BitVec.ofNat 8 (val (slice pkt (8 * j) (8 * j + 7)))) := by
  induction pkt using packBytes.induct generalizing j with
  | case1 b7 b6 b5 b4 b3 b2 b1 b0 rest ih =>
    cases j with
    | zero =>
      have := packByte_toNat b7 b6 b5 b4 b3 b2 b1 b0
      simp only [packBytes, List.getElem?_cons_zero, slice, Option.some.injEq]
      apply BitVec.eq_of_toNat_eq
      rw [this]
      have hlt := val_lt [b7, b6, b5, b4, b3, b2, b1, b0]
      simp only [List.length_cons, List.length_nil, Nat.reduceAdd] at hlt
      simp only [BitVec.toNat_ofNat, Nat.mul_zero, List.drop_zero, Nat.reduceAdd, Nat.reduceSub, List.take_succ_cons,
        List.take_zero]
      exact (Nat.mod_eq_of_lt hlt).symm
    | succ j =>
      simp only [List.length_cons] at h
      have e : 8 * (j + 1) = 8 * j + 8 := by ring
      have hs : slice (b7 :: b6 :: b5 :: b4 :: b3 :: b2 :: b1 :: b0 :: rest) (8 * (j + 1)) (8 * (j + 1) + 7) =
          slice rest (8 * j) (8 * j + 7) := by
        have e2 : 8 * j + 8 + 7 + 1 - (8 * j + 8) = 8 * j + 7 + 1 - 8 * j := by omega
        simp only [slice, e, e2, List.drop_succ_cons]
      rw [hs, ← ih j (by omega)]
      rfl
  | case2 pkt hn =>
    match pkt, hn with
    | b7 :: b6 :: b5 :: b4 :: b3 :: b2 :: b1 :: b0 :: rest, hn => exact absurd rfl (hn b7 b6 b5 b4 b3 b2 b1 b0 rest)
    | [], _ => simp at h
    | [_], _ => simp at h
    | [_, _], _ => simp at h
    | [_, _, _], _ => simp at h
    | [_, _, _, _], _ => simp at h
    | [_, _, _, _, _], _ => simp at h
    | [_, _, _, _, _, _], _ => simp at h
    | [_, _, _, _, _, _, _], _ => simp at h

/-- Dropping eight bits drops one byte. -/
theorem packBytes_drop (pkt : List Bit) (j : Nat) : packBytes (pkt.drop (8 * j)) = (packBytes pkt).drop j := by
  induction j generalizing pkt with
  | zero => simp
  | succ j ih =>
    have e : 8 * (j + 1) = 8 + 8 * j := by ring
    rw [e, ← List.drop_drop, ih]
    rw [show j + 1 = 1 + j by ring, ← List.drop_drop]
    congr 1
    match pkt with
    | b7 :: b6 :: b5 :: b4 :: b3 :: b2 :: b1 :: b0 :: rest => rfl
    | [] => rfl
    | [_] => rfl
    | [_, _] => rfl
    | [_, _, _] => rfl
    | [_, _, _, _] => rfl
    | [_, _, _, _, _] => rfl
    | [_, _, _, _, _, _] => rfl
    | [_, _, _, _, _, _, _] => rfl

/-! ## The checksum (R220) -/

/-- The accumulation from any start is the start combined with the accumulation from 0. -/
theorem foldl_xor (seq : List Byte) (c : Byte) :
    seq.foldl (fun c b => c ^^^ b) c = c ^^^ seq.foldl (fun c b => c ^^^ b) 0#8 := by
  induction seq generalizing c with
  | nil => simp
  | cons b seq ih =>
    simp only [List.foldl_cons]
    rw [ih (c ^^^ b), ih (0#8 ^^^ b)]
    simp [BitVec.xor_assoc]

/-- One more byte at the end is combined in (R220). -/
theorem xorSum_append_singleton (seq : List Byte) (b : Byte) : xorSum (seq ++ [b]) = xorSum seq ^^^ b := by
  simp [xorSum, List.foldl_append]

end Machine

end Sys2Proof
end

