-- ==== Sys2Proof/Laws/Ops.lean ====
section
/-! SUPPORT. One lemma for each shared operation that says once everything it can do: chaining, the leading window, the
edge of lane P, the push and the compares of lane M, the capture, and the step. -/

namespace Sys2Proof

namespace Machine

/-! ## Outcomes -/

@[simp] theorem andThen_next (s : State) (k : State → Host.Outcome State Fault Refusal) : andThen (.next s) k = k s := rfl
@[simp] theorem andThen_fault (f : Fault) (k : State → Host.Outcome State Fault Refusal) :
    andThen (.fault f) k = .fault f := rfl
@[simp] theorem andThen_refused (f : Refusal) (k : State → Host.Outcome State Fault Refusal) :
    andThen (.refused f) k = .refused f := rfl

/-- A chain answers a next state exactly when both its parts do. -/
theorem andThen_eq_next {r : Host.Outcome State Fault Refusal} {k : State → Host.Outcome State Fault Refusal}
    {t : State} : andThen r k = .next t ↔ ∃ u, r = .next u ∧ k u = .next t := by
  cases r <;> simp

/-- One operation run as a list of one. -/
theorem runAll_single (i : Instr) (s : State) : runAll [i] s = exec i s := by
  simp only [runAll]; cases exec i s <;> rfl

/-- Two operations run as a list of two. -/
theorem runAll_pair (i j : Instr) (s : State) :
    runAll [i, j] s = andThen (exec i s) (fun s1 => exec j s1) := by
  simp only [runAll]; congr 1; funext s1; cases exec j s1 <;> rfl

/-- What is guarded by `halted` does nothing while halted. -/
theorem unlessHalted_true {s : State} (h : s.halted = true) (k : State → Host.Outcome State Fault Refusal) :
    unlessHalted s k = .next s := if_pos h

/-- What is guarded by `halted` runs otherwise. -/
theorem unlessHalted_false {s : State} (h : s.halted = false) (k : State → Host.Outcome State Fault Refusal) :
    unlessHalted s k = k s := if_neg (by rw [h]; decide)

/-! ## The leading window (R61, R168) -/

/-- A window within the buffer is its first symbols. -/
theorem withWindow_ok {n : Nat} {s : State} {k : List Bit → Host.Outcome State Fault Refusal} (h : n ≤ s.buf.length) :
    withWindow n s k = k (s.buf.take n) := by
  simp [withWindow, memRead_leading h]

/-- A window past the tail is a fault. -/
theorem withWindow_fault {n : Nat} {s : State} {k : List Bit → Host.Outcome State Fault Refusal}
    (h : s.buf.length < n) : withWindow n s k = .fault (.memReadOutside n s.buf.length) := by
  have : memRead s.buf 0 n = none := by simp [memRead]; omega
  simp [withWindow, this]

/-! ## Lane P (R120) -/

/-- The bits accumulated after an edge to a level, before completion is tested. -/
def accAfterEdge (level : Bit) (elapsed : Nat) (acc : List Bit) : List Bit :=
  (if 50 < elapsed then [] else acc) ++ (if level then [] else [decide (elapsed ≤ 4)])

/-- An unchanged level advances the index. -/
theorem acceptLevel_hold {level : Bit} {s : State} (h : level = s.pwLastLevel) :
    acceptLevel level s = { s with pwIndex := s.pwIndex + 1 } := by
  subst h; simp [acceptLevel]

/-- An edge: the registers of PW.EDGE, the bits, the completion, and the record. -/
theorem acceptLevel_edge {level : Bit} {s : State} (h : level ≠ s.pwLastLevel) {elapsed : Nat}
    (he : elapsed = s.pwIndex - s.pwLastTransitionIndex) {acc : List Bit}
    (ha : acc = accAfterEdge level elapsed s.pwAcc) :
    acceptLevel level s = { s with
      pwIndex := s.pwIndex + 1
      pwLastTransitionIndex := s.pwIndex
      pwLastLevel := level
      pwAcc := if level = false ∧ acc.length = 13 then [] else acc
      condsP := s.condsP ++ (if 50 < elapsed then [.syncLoss elapsed] else [])
      out := if level = false ∧ acc.length = 13 then { s.out with doorbell := some (doorbellOf acc) } else s.out } := by
  have hacc : acceptLevel level s =
      (let s2 := recordEdge s.pwIndex level { s with pwIndex := s.pwIndex + 1 }
       let s3 := if 50 < elapsed then discardAcc elapsed s2 else s2
       if level = false then completeIfFull (appendBit (classifyPulse elapsed) s3) else s3) := by
    simp only [acceptLevel, he]; rw [if_pos h]; rfl
  rw [hacc, ha]
  clear he ha hacc
  by_cases h50 : 50 < elapsed
  · cases level <;> simp [accAfterEdge, h50, completeIfFull, discardAcc, raise, conditionLane, appendBit, classifyPulse,
      recordEdge]
  · cases level
    · by_cases hl : s.pwAcc.length = 12 <;> simp [accAfterEdge, h50, completeIfFull, appendBit, recordEdge, classifyPulse,
        hl, completeAcc, emitDoorbell]
    · simp [accAfterEdge, h50, recordEdge]

/-- A symbol does what its class does (R97, R120). -/
theorem exec_classOf (level : Bit) (s : State) : exec (classOf level s) s = .next (acceptLevel level s) := by
  unfold classOf edgeOf
  by_cases h : level = s.pwLastLevel
  · simp [h, decodePwClass, exec, execPwHold, acceptLevel]
  · have e : elapsedAt s.pwIndex { s with pwIndex := s.pwIndex + 1 } = elapsedAt s.pwIndex s := rfl
    simp only [acceptLevel, ne_eq, h, not_false_eq_true, if_true, if_false, e]
    generalize he : elapsedAt s.pwIndex s = el
    cases level
    · by_cases h1 : el ≤ 4
      · have h2 : ¬ 50 < el := by omega
        simp [decodePwClass, h1, h2, exec, execPwShort, classEdge, classifyPulse]
      · by_cases h3 : el ≤ 50
        · have h2 : ¬ 50 < el := by omega
          simp [decodePwClass, h1, h2, h3, exec, execPwLong, classEdge, classifyPulse]
        · have h2 : 50 < el := by omega
          simp [decodePwClass, h1, h2, h3, exec, execPwLongResync, classEdge, classifyPulse, he]
    · by_cases h3 : el ≤ 50
      · have h2 : ¬ 50 < el := by omega
        simp [decodePwClass, h2, h3, exec, execPwRise, classEdge]
      · have h2 : 50 < el := by omega
        simp [decodePwClass, h2, h3, exec, execPwRiseResync, classEdge, he]

/-- `button_id` has the bits at positions 1 to 8, the earliest least significant (R126). -/
theorem buttonOf_bits (b0 b1 b2 b3 b4 b5 b6 b7 : Bit) : ∀ k, k < 8 →
    ([b0, b1, b2, b3, b4, b5, b6, b7].foldl (shiftIn 8) 0#8).getLsbD k = [b0, b1, b2, b3, b4, b5, b6, b7].getD k false := by
  revert b0 b1 b2 b3 b4 b5 b6 b7; decide +kernel

/-- `tone` has the bits at positions 9 to 12, the earliest least significant (R127). -/
theorem toneOf_bits (b0 b1 b2 b3 : Bit) : ∀ k, k < 4 →
    ([b0, b1, b2, b3].foldl (shiftIn 4) 0#4).getLsbD k = [b0, b1, b2, b3].getD k false := by
  revert b0 b1 b2 b3; decide +kernel

/-! ## Lane M (R165, R185 to R194) -/

/-- A push in one record update (R165). -/
theorem pushSymbol_eq (b : Bit) (s : State) :
    pushSymbol b s = { s with buf := (if s.buf.length = 1680 then s.buf.drop 1 else s.buf) ++ [b] } := by
  unfold pushSymbol; simp only [Config.cap_eq]; split <;> rfl

/-- The terminator of a window that begins with the delimiter is at least 8 (R192: the skip is of eight bits). -/
theorem terminator_of_delimiter {w : List Bit} (h : w.take 16 = Config.sfd) : 8 ≤ terminator (manchPairs w) := by
  have hw : w = Config.sfd ++ w.drop 16 := by rw [← h, List.take_append_drop]
  rw [hw, show Config.sfd = chipsOf [true, true, true, true, false, false, false, false] from rfl,
    manchPairs_chipsOf, terminator_append_bits]
  simp

/-- A sequence without Invalid loses nothing when its bits are taken (R193). -/
theorem filterMap_triBit_map {l : List Tri} (h : ∀ x ∈ l, x ≠ .invalid) :
    (l.filterMap triBit).map (fun b => if b then Tri.one else Tri.zero) = l := by
  induction l with
  | nil => rfl
  | cons x l ih =>
    have hx := h x (by simp)
    have hl := ih (fun y hy => h y (by simp [hy]))
    cases x with
    | zero => rw [List.filterMap_cons_some (f := triBit) (b := false) rfl]; simp only [List.map_cons, hl]; rfl
    | one => rw [List.filterMap_cons_some (f := triBit) (b := true) rfl]; simp only [List.map_cons, hl]; rfl
    | invalid => exact absurd rfl hx

/-- No value of `t[8 .. e-1]` is Invalid when `e` is at most the terminator (R193). -/
theorem packetRange_valid {t : List Tri} {e : Nat} (h : e ≤ terminator t) :
    ∀ x ∈ (t.drop 8).take (e - 8), x ≠ Tri.invalid := by
  intro x hx e2
  rw [e2, List.mem_iff_getElem?] at hx
  obtain ⟨i, hi⟩ := hx
  rw [List.getElem?_take] at hi
  split at hi
  · rw [List.getElem?_drop] at hi
    exact terminator_before (by omega) hi
  · cases hi

/-- The packet before the terminator has all values but the first eight (R193). -/
theorem packetOf_length {t : List Tri} {e : Nat} (h : e ≤ terminator t) : (packetOf t e).length = e - 8 := by
  have hm := congrArg List.length (filterMap_triBit_map (packetRange_valid h))
  have hl := terminator_le t
  simp only [List.length_map, List.length_take, List.length_drop] at hm
  unfold packetOf; simp only [Config.skipBits_eq]; omega

/-- A capture in one record update: the record or the failure notice, and the removal (R192). -/
theorem captureWindow_eq {w : List Bit} {pkt : List Bit} (h : pkt = packetOf (manchPairs w) (terminator (manchPairs w)))
    (s : State) :
    captureWindow w s = { s with
      buf := s.buf.drop (2 * terminator (manchPairs w))
      condsM := s.condsM ++ (if 88 < pkt.length then [] else [.structuralShort pkt.length])
      out := if 88 < pkt.length then { s.out with zwave := some (buildFrame pkt) }
        else { s.out with fail := some pkt.length } } := by
  subst h
  simp only [captureWindow, handOver, fieldsOf, Config.headerBits_eq]
  split
  · rename_i h
    split at h
    · cases h
    · rename_i h2; simp [h2, removeHead, emitFailure, raise, conditionLane, memDropHead]
  · rename_i h
    split at h
    · rename_i h2; cases h; simp [h2, removeHead, emitZWave, memDropHead]
    · cases h

/-- A capture on a full buffer completes (R192). -/
theorem captureFrame_ok {s : State} (h : 1680 ≤ s.buf.length) :
    captureFrame s = .next (captureWindow (s.buf.take 1680) s) := by
  simp [captureFrame, withWindow_ok h]

/-- Everything a compare on a full buffer can do, with its guards (R186 to R192). -/
theorem syncCompare_cases {s : State} (hl : s.buf.length = 1680) : ∃ t, syncCompare s = .next t ∧
    ((s.syncState = .searchingPreamble ∧ s.buf.take 32 = Config.preamble ∧
        t = { s with syncState := .searchingDelimiter, sfdAttempts := 0 }) ∨
     (s.syncState = .searchingPreamble ∧ s.buf.take 32 ≠ Config.preamble ∧
        t = { s with buf := s.buf.drop 1, condsM := s.condsM ++ [.patternMiss .preamble] }) ∨
     (s.syncState = .searchingDelimiter ∧ s.buf.take 16 = Config.sfd ∧
        t = { captureWindow s.buf s with syncState := .searchingPreamble, sfdAttempts := 0 }) ∨
     (s.syncState = .searchingDelimiter ∧ s.buf.take 16 ≠ Config.sfd ∧
        s.sfdAttempts + 1 < s.params.sfdAttemptLimit ∧
        t = { s with
          buf := s.buf.drop 1, condsM := s.condsM ++ [.patternMiss .delimiter], sfdAttempts := s.sfdAttempts + 1 }) ∨
     (s.syncState = .searchingDelimiter ∧ s.buf.take 16 ≠ Config.sfd ∧
        s.params.sfdAttemptLimit ≤ s.sfdAttempts + 1 ∧
        t = { s with
          buf := s.buf.drop 1, condsM := s.condsM ++ [.patternMiss .delimiter],
          syncState := .searchingPreamble, sfdAttempts := 0 })) := by
  have h32 : 32 ≤ s.buf.length := by omega
  have h16 : 16 ≤ s.buf.length := by omega
  have h80 : 1680 ≤ s.buf.length := by omega
  have ht : s.buf.take 1680 = s.buf := List.take_of_length_le (by omega)
  unfold syncCompare
  split <;> rename_i hs
  · simp only [searchPreamble, Config.preLen_eq, withWindow_ok h32]
    split <;> rename_i hw
    · exact ⟨_, rfl, .inl ⟨hs, hw, rfl⟩⟩
    · exact ⟨_, rfl, .inr (.inl ⟨hs, hw, rfl⟩)⟩
  · simp only [searchDelimiter, Config.sfdLen_eq, withWindow_ok h16]
    split <;> rename_i hw
    · rw [captureFrame_ok h80, ht]
      exact ⟨_, rfl, .inr (.inr (.inl ⟨hs, hw, rfl⟩))⟩
    · by_cases hc : s.sfdAttempts + 1 < s.params.sfdAttemptLimit
      · refine ⟨_, rfl, .inr (.inr (.inr (.inl ⟨hs, hw, hc, ?_⟩)))⟩
        simp [missDelimiter, evictHead, raise, conditionLane, memDropHead, Nat.not_le.2 hc]
      · refine ⟨_, rfl, .inr (.inr (.inr (.inr ⟨hs, hw, Nat.not_lt.1 hc, ?_⟩)))⟩
        simp [missDelimiter, evictHead, raise, conditionLane, memDropHead, bailout, enterSync, Nat.not_lt.1 hc]

/-- An accepted chip: the push, and the compare when the buffer is then full (R185). -/
theorem acceptChip_eq (chip : Bit) (s : State) {w : List Bit}
    (hw : w = (if s.buf.length = 1680 then s.buf.drop 1 else s.buf) ++ [chip]) :
    acceptChip chip s =
      if w.length = 1680 then syncCompare { s with buf := w } else .next { s with buf := w } := by
  unfold acceptChip; rw [pushSymbol_eq, ← hw]

/-! ## The step (R260) -/

/-- The shapes of what an input word selects (R90). -/
theorem decodeInputWord_cases (iw : BitVec 6) :
    decodeInputWord iw = [.rst] ∨ decodeInputWord iw = [.cancel] ∨ decodeInputWord iw = [.idle] ∨
    (decodeInputWord iw = [.pwSym false] ∨ decodeInputWord iw = [.pwSym true]) ∨
    (decodeInputWord iw = [.mzSym false] ∨ decodeInputWord iw = [.mzSym true]) ∨
    ((decodeInputWord iw = [.pwSym false, .mzSym false] ∨ decodeInputWord iw = [.pwSym false, .mzSym true]) ∨
      decodeInputWord iw = [.pwSym true, .mzSym false] ∨ decodeInputWord iw = [.pwSym true, .mzSym true]) := by
  revert iw; decide +kernel

/-- A symbol's own word selects that symbol's operation (R106). -/
theorem decodeInputWord_laneWord (lane : Lane) (b : Bit) :
    decodeInputWord (laneWord lane b) = [match lane with | .p => .pwSym b | .m => .mzSym b] := by
  cases lane <;> cases b <;> decide

/-- The symbols read back from their words (R106). -/
theorem laneSymbols_map (lane : Lane) (ss : List Bit) : laneSymbols lane (ss.map (laneWord lane)) = some ss := by
  have h1 : ∀ b, laneSymbol lane (laneWord lane b) = some b := by intro b; cases lane <;> cases b <;> decide
  induction ss with
  | nil => rfl
  | cons b ss ih => simp [laneSymbols, h1, ih]

/-- The word taken and the record cleared, in one record update. -/
theorem takeWord_cons {s : State} {iw : BitVec 6} {ws : List (BitVec 6)} (h : s.inputs = iw :: ws) :
    takeWord s =
      { s with inputs := ws, out := ⟨none, none, none⟩, condsP := [], condsM := [], result := none } := by
  simp [takeWord, beginStep, h]; rfl

/-- With a word to present, a step runs what it selects. -/
theorem step_cons {s : State} {iw : BitVec 6} {ws : List (BitVec 6)} (h : s.inputs = iw :: ws) :
    step s = runAll (decodeInputWord iw) (takeWord s) := by
  simp [step, presentedWord, h]

end Machine

end Sys2Proof
end

