-- ==== Sys2Proof/Laws/PerInstr.lean ====
section
/-! SUPPORT. A statement made of every operation, one lemma for each constructor: its code, where it has one, is of the
format its table row names. -/

namespace Sys2Proof

namespace Laws

namespace EncodedFormat

/-- The code of an operation is of its row's format. -/
def Statement (i : Instr) : Prop := ∀ c, encode i = some c → c.format = i.format

theorem rst : Statement .rst := by
  intro x h
  cases h; rfl

theorem cancel : Statement .cancel := by
  intro x h
  cases h; rfl

theorem mzSym : ∀ b, Statement (.mzSym b) := by
  intro b x h
  cases h; rfl

theorem pwSym : ∀ b, Statement (.pwSym b) := by
  intro b x h
  cases h; rfl

theorem idle : Statement .idle := by
  intro x h
  cases h; rfl

theorem batch : ∀ lane symbols, Statement (.batch lane symbols) := by
  intro lane symbols x h
  simp only [encode] at h
  split at h
  · cases h
  · cases h; rfl

theorem manchInv0 : Statement .manchInv0 := by
  intro x h
  cases h; rfl

theorem manchZero : Statement .manchZero := by
  intro x h
  cases h; rfl

theorem manchOne : Statement .manchOne := by
  intro x h
  cases h; rfl

theorem manchInv1 : Statement .manchInv1 := by
  intro x h
  cases h; rfl

theorem manch : ∀ a b, Statement (.manch a b) := by
  intro a b x h
  cases h; rfl

theorem pwShort : Statement .pwShort := by
  intro x h
  cases h

theorem pwLong : Statement .pwLong := by
  intro x h
  cases h

theorem pwLongResync : Statement .pwLongResync := by
  intro x h
  cases h

theorem pwRise : Statement .pwRise := by
  intro x h
  cases h

theorem pwRiseResync : Statement .pwRiseResync := by
  intro x h
  cases h

theorem pwHold : Statement .pwHold := by
  intro x h
  cases h

theorem preamble : Statement .preamble := by
  intro x h
  cases h; rfl

theorem sfd : Statement .sfd := by
  intro x h
  cases h; rfl

theorem doorbell13 : ∀ acc, Statement (.doorbell13 acc) := by
  intro acc x h
  cases h; rfl

theorem zwPacket : ∀ pkt, Statement (.zwPacket pkt) := by
  intro pkt x h
  cases h; rfl

theorem triState : ∀ code, Statement (.triState code) := by
  intro code x h
  cases h; rfl

theorem pwEdge : ∀ index level, Statement (.pwEdge index level) := by
  intro index level x h
  cases h

theorem pwResync : ∀ elapsed, Statement (.pwResync elapsed) := by
  intro elapsed x h
  cases h

theorem pwClassify : ∀ elapsed, Statement (.pwClassify elapsed) := by
  intro elapsed x h
  cases h

theorem pwAppend : ∀ bit, Statement (.pwAppend bit) := by
  intro bit x h
  cases h

theorem pwComplete : Statement .pwComplete := by
  intro x h
  cases h

theorem dbButton : ∀ acc, Statement (.dbButton acc) := by
  intro acc x h
  cases h

theorem dbTone : ∀ acc, Statement (.dbTone acc) := by
  intro acc x h
  cases h

theorem manchSeq : ∀ w, Statement (.manchSeq w) := by
  intro w x h
  cases h

theorem manchTerm : ∀ t, Statement (.manchTerm t) := by
  intro t x h
  cases h

theorem bufPush : ∀ b, Statement (.bufPush b) := by
  intro b x h
  cases h

theorem bufEvict : Statement .bufEvict := by
  intro x h
  cases h

theorem bufRemove : ∀ k, Statement (.bufRemove k) := by
  intro k x h
  cases h

theorem bufRead : ∀ n, Statement (.bufRead n) := by
  intro n x h
  cases h

theorem syncStep : Statement .syncStep := by
  intro x h
  cases h

theorem syncPre : Statement .syncPre := by
  intro x h
  cases h

theorem syncSfd : Statement .syncSfd := by
  intro x h
  cases h

theorem syncBailout : Statement .syncBailout := by
  intro x h
  cases h

theorem frameCapture : Statement .frameCapture := by
  intro x h
  cases h

theorem pktExtract : ∀ t e, Statement (.pktExtract t e) := by
  intro t e x h
  cases h

theorem fxPack : ∀ pkt, Statement (.fxPack pkt) := by
  intro pkt x h
  cases h

theorem fxFields : ∀ pkt, Statement (.fxFields pkt) := by
  intro pkt x h
  cases h

theorem chkXor : ∀ seq, Statement (.chkXor seq) := by
  intro seq x h
  cases h

theorem chkRange : ∀ len n, Statement (.chkRange len n) := by
  intro len n x h
  cases h

theorem chkOk : ∀ bytes len crc, Statement (.chkOk bytes len crc) := by
  intro bytes len crc x h
  cases h

theorem zwBuild : ∀ pkt, Statement (.zwBuild pkt) := by
  intro pkt x h
  cases h

theorem chkFrame : ∀ frame, Statement (.chkFrame frame) := by
  intro frame x h
  cases h

theorem emitDb : ∀ frame, Statement (.emitDb frame) := by
  intro frame x h
  cases h

theorem emitZw : ∀ frame, Statement (.emitZw frame) := by
  intro frame x h
  cases h

theorem emitFail : ∀ n, Statement (.emitFail n) := by
  intro n x h
  cases h

end EncodedFormat

end Laws

end Sys2Proof
end

