-- ==== Sys2Proof/Tests/Slice0.lean ====
section
/-! SUPPORT. The model's own tests. Expected results are the spec's: the encodings of 30_encoding.md written out bit by
bit and the vectors V<n> of 95_test_vectors.md. The last part holds, for every statement with hypotheses, a state and
operands that meet them. -/

namespace Sys2Proof

namespace Tests

open Machine

/-! ## Helpers -/

/-- What a view shows of a next state. -/
def got {α : Type} (r : Host.Outcome State Fault Refusal) (f : State → α) : Option α :=
  match r with
  | .next s => some (f s)
  | .fault _ => none
  | .refused _ => none

/-- Lane P as 95_test_vectors.md writes it. -/
def laneP (s : State) : Bit × Nat × Nat × List Bit := (s.pwLastLevel, s.pwLastTransitionIndex, s.pwIndex, s.pwAcc)

/-- Lane M as 95_test_vectors.md writes it. -/
def laneM (s : State) : SyncState × Nat × Nat := (s.syncState, s.sfdAttempts, s.buf.length)

/-- A state with lane P given. -/
def withP (level : Bit) (last index : Nat) (acc : List Bit) : State :=
  { State.reset with pwLastLevel := level, pwLastTransitionIndex := last, pwIndex := index, pwAcc := acc }

/-- A state with lane M given: the buffer's first symbols, filled up with zeros to a length. -/
def withM (st : SyncState) (attempts : Nat) (lead : List Bit) (len : Nat) : State :=
  { State.reset with
      syncState := st, sfdAttempts := attempts, buf := lead ++ List.replicate (len - lead.length) false }

/-- A state with input words to present. -/
def withWords (ws : List (BitVec 6)) (s : State) : State := { s with inputs := ws }

/-- Bytes as bits, most significant first (R67). -/
def bitsOfBytes (bytes : List Nat) : List Bit := bytes.flatMap (bitsOf 8)

/-- The eleven header bytes `H` of V71, with the length byte given. -/
def header (len : Nat) : List Nat := [0xC0, 0xFF, 0xEE, 0x01, 0x02, 0x41, 0x03, len, 0x05, 0x25, 0x01]

/-- `H(L)` followed by `0x42`, as bytes (V81 to V88). -/
def headerBytes (len : Nat) : List Byte := (header len ++ [0x42]).map (BitVec.ofNat 8)

/-! ## Decoding: words written from the tables -/

/-- R90: bit 5 rst, bit 4 cancel, bit 3 mz_valid, bit 2 mz_sym, bit 1 pw_valid, bit 0 pw_sym. -/
theorem test_decode_input_words :
    decodeInputWord 0b100000#6 = [.rst] ∧ decodeInputWord 0b010000#6 = [.cancel] ∧
    decodeInputWord 0b001000#6 = [.mzSym false] ∧ decodeInputWord 0b001100#6 = [.mzSym true] ∧
    decodeInputWord 0b000010#6 = [.pwSym false] ∧ decodeInputWord 0b000011#6 = [.pwSym true] ∧
    decodeInputWord 0b000000#6 = [.idle] := by decide

/-- V102, V103, V105: priority, symbol bits without their valid bits, both lanes. -/
theorem test_decode_combined_words :
    decodeInputWord 0x30#6 = [.rst] ∧ decodeInputWord 0x23#6 = [.rst] ∧ decodeInputWord 0x13#6 = [.cancel] ∧
    decodeInputWord 0x01#6 = [.idle] ∧ decodeInputWord 0x04#6 = [.idle] ∧
    decodeInputWord 0x0B#6 = [.pwSym true, .mzSym false] ∧
    decodeInputWord 0x0F#6 = [.pwSym true, .mzSym true] := by decide

/-- R264: a batch is the sequence of its single words. -/
theorem test_decode_batch :
    decode (.inputWords [0x03#6, 0x02#6, 0x03#6]) = .ok [.batch .p [true, false, true]] ∧
    decode (.inputWords [0x0C#6, 0x08#6]) = .ok [.batch .m [true, false]] ∧
    decode (.inputWords [0x0C#6, 0x03#6]) = .error .notOneLane ∧
    decode (.inputWords []) = .error .notOneLane := by decide

/-- R92: the earlier chip is bit 1. -/
theorem test_decode_chip_pairs :
    decode (.chipPair 0b00#2) = .ok [.manchInv0] ∧ decode (.chipPair 0b01#2) = .ok [.manchZero] ∧
    decode (.chipPair 0b10#2) = .ok [.manchOne] ∧ decode (.chipPair 0b11#2) = .ok [.manchInv1] ∧
    encode (.manch true false) = some (.chipPair 0b10#2) := by decide

/-- R97: the classes at the boundaries of their ranges. -/
theorem test_decode_pulse_classes :
    decodePwClass (some false) 4 = .pwShort ∧ decodePwClass (some false) 5 = .pwLong ∧
    decodePwClass (some false) 50 = .pwLong ∧ decodePwClass (some false) 51 = .pwLongResync ∧
    decodePwClass (some true) 50 = .pwRise ∧ decodePwClass (some true) 51 = .pwRiseResync ∧
    decodePwClass none 75 = .pwHold := by decide

/-- R94, R95: 32 symbols `1100` eight times, 16 symbols `10` four times then `01` four times, first symbol leftmost. -/
theorem test_decode_patterns :
    decode (.pattern32 0b11001100110011001100110011001100#32) = .ok [.preamble] ∧
    decode (.pattern16 0b1010101001010101#16) = .ok [.sfd] ∧
    decode (.pattern32 0b11001100110011001100110011001101#32) = .error .notPreamble ∧
    decode (.pattern16 0b0101010110101010#16) = .error .notDelimiter := by decide

/-- R98, R99, R93: a 13-bit accumulator, a packet of 89 bits, a tri-state code; and what is too short. -/
theorem test_decode_layouts :
    decodeTableWord 13 0b1100000011000 =
      some (.doorbell13 [true, true, false, false, false, false, false, false, true, true, false, false, false]) ∧
    decode (.doorbell [true]) = .error .notThirteenBits ∧
    decode (.packet (List.replicate 89 true)) = .ok [.zwPacket (List.replicate 89 true)] ∧
    decode (.packet (List.replicate 88 true)) = .error .packetTooShort ∧
    decode (.tri2 0b10#2) = .ok [.triState 0b10#2] := by decide

/-- The next step meets what is placed for it. -/
theorem test_withFetchWord :
    got (step (State.reset.withFetchWord 6 0b000011)) laneP = some (true, 0, 1, []) ∧
    got (step (State.reset.withFetchWord 32 0xCCCCCCCC)) laneM = some (.searchingDelimiter, 0, 1680) ∧
    got (step (State.reset.withFetchWord 13 0b1100000011000)) (fun s => s.out.doorbell) = some (some ⟨129#8, 1#4⟩) := by
  decide +kernel

/-! ## Well-formedness: an ill-formed operand for each check, beside a well-formed one -/

theorem test_wf_doorbell : (Instr.doorbell13 (List.replicate 12 true)).wf = false ∧
    (Instr.doorbell13 (List.replicate 13 true)).wf = true := by decide

theorem test_wf_button : (Instr.dbButton (List.replicate 14 true)).wf = false ∧
    (Instr.dbTone (List.replicate 12 true)).wf = false ∧ (Instr.dbTone (List.replicate 13 true)).wf = true := by decide

theorem test_wf_packet : (Instr.zwPacket (List.replicate 88 true)).wf = false ∧
    (Instr.zwBuild (List.replicate 88 true)).wf = false ∧ (Instr.zwBuild (List.replicate 89 true)).wf = true := by decide

theorem test_wf_remove : (Instr.bufRemove 1681).wf = false ∧ (Instr.bufRemove 1680).wf = true := by decide

theorem test_wf_read : (Instr.bufRead 17).wf = false ∧ (Instr.bufRead 16).wf = true ∧ (Instr.bufRead 32).wf = true ∧
    (Instr.bufRead 1680).wf = true := by decide

theorem test_wf_extract : (Instr.pktExtract (List.replicate 9 .zero) 7).wf = false ∧
    (Instr.pktExtract (List.replicate 9 .zero) 10).wf = false ∧
    (Instr.pktExtract (List.replicate 8 .zero ++ [.invalid]) 9).wf = false ∧
    (Instr.pktExtract (List.replicate 9 .zero) 9).wf = true := by decide

theorem test_wf_range : (Instr.chkRange 12#8 10).wf = false ∧ (Instr.chkRange 12#8 11).wf = true := by decide

theorem test_wf_frame : (Instr.chkFrame []).wf = false ∧ (Instr.chkFrame [0x01#8]).wf = true := by decide

theorem test_wf_emitZw :
    (Instr.emitZw ⟨0#32, 0#8, 0#16, 0#8, 0#8, 0#8, 0#8, List.replicate 94 0#8, 0#8, false⟩).wf = false ∧
    (Instr.emitZw ⟨0#32, 0#8, 0#16, 0#8, 0#8, 0#8, 0#8, List.replicate 93 0#8, 0#8, false⟩).wf = true := by decide

theorem test_wf_emitFail : (Instr.emitFail 89).wf = false ∧ (Instr.emitFail 88).wf = true := by decide

/-! ## Lane P: one step each -/

/-- V24: over 50 samples, discarded, then bit 0. -/
theorem test_pwSym_long_pulse : got (exec (.pwSym false) (withP true 100 151 [true, false])) laneP =
    some (false, 151, 152, [false]) := by decide

/-- V30, V95: the 13th bit. -/
theorem test_pwSym_thirteenth :
    got (exec (.pwSym false) (withP true 100 109
      [true, true, false, false, false, false, false, false, true, true, false, false]))
      (fun s => (laneP s, s.out)) = some ((false, 109, 110, []), ⟨some ⟨129#8, 1#4⟩, none, none⟩) := by decide

/-- V21. -/
theorem test_pwShort : got (exec .pwShort (withP true 100 104 [true, false])) laneP =
    some (false, 104, 105, [true, false, true]) := by decide

/-- V23. -/
theorem test_pwLong : got (exec .pwLong (withP true 100 150 [true, false])) laneP =
    some (false, 150, 151, [true, false, false]) := by decide

/-- V24 by its class, with the condition. -/
theorem test_pwLongResync : got (exec .pwLongResync (withP true 100 151 [true, false]))
    (fun s => (laneP s, s.condsP)) = some ((false, 151, 152, [false]), [.syncLoss 51]) := by decide

/-- V25. -/
theorem test_pwRise : got (exec .pwRise (withP false 100 150 [true, false])) laneP =
    some (true, 150, 151, [true, false]) := by decide

/-- V26. -/
theorem test_pwRiseResync : got (exec .pwRiseResync (withP false 100 151 [true, false]))
    (fun s => (laneP s, s.condsP)) = some ((true, 151, 152, []), [.syncLoss 51]) := by decide

/-- V27. -/
theorem test_pwHold : got (exec .pwHold (withP true 100 130 [true, false])) laneP =
    some (true, 100, 131, [true, false]) := by decide

/-- V22's edge: `elapsed = 5` is returned. -/
theorem test_pwEdge : got (exec (.pwEdge 105 false) (withP true 100 105 []))
    (fun s => (laneP s, s.result)) = some ((false, 105, 105, []), some (.nat 5)) := by decide

theorem test_pwResync : got (exec (.pwResync 60) (withP false 69 129 [true, false])) (fun s => (s.pwAcc, s.condsP)) =
    some ([], [.syncLoss 60]) := by decide

/-- V2. -/
theorem test_pwClassify :
    got (exec (.pwClassify 4) State.reset) State.result = some (some (.bit true)) ∧
    got (exec (.pwClassify 5) State.reset) State.result = some (some (.bit false)) := by decide

theorem test_pwAppend : got (exec (.pwAppend false) (withP true 0 1 [true])) State.pwAcc = some [true, false] := by
  decide

/-- V29's completion. -/
theorem test_pwComplete :
    got (exec .pwComplete (withP false 103 104
      [true, true, false, false, false, false, false, false, true, true, false, false, true]))
      (fun s => (s.pwAcc, s.out.doorbell)) = some ([], some ⟨129#8, 9#4⟩) := by decide

/-- V34 rows 4 and 5. -/
theorem test_dbButton :
    got (exec (.dbButton [true, false, false, false, false, false, false, false, true, false, true, false, false])
      State.reset) State.result = some (some (.byte 128#8)) ∧
    got (exec (.dbButton [false, true, false, true, false, false, true, false, true, true, false, false, true])
      State.reset) State.result = some (some (.byte 165#8)) := by decide

/-- V34 rows 4 and 5. -/
theorem test_dbTone :
    got (exec (.dbTone [true, false, false, false, false, false, false, false, true, false, true, false, false])
      State.reset) State.result = some (some (.nibble 2#4)) ∧
    got (exec (.dbTone [false, true, false, true, false, false, true, false, true, true, false, false, true])
      State.reset) State.result = some (some (.nibble 9#4)) := by decide

/-- V8. -/
theorem test_doorbell13 :
    got (exec (.doorbell13 [true, true, false, false, false, false, false, false, true, true, false, false, false])
      State.reset) State.result = some (some (.doorbell ⟨129#8, 1#4⟩)) := by decide

/-! ## The Manchester decoder -/

/-- V40. -/
theorem test_manch_cases :
    got (exec .manchInv0 State.reset) State.result = some (some (.tri .invalid)) ∧
    got (exec .manchZero State.reset) State.result = some (some (.tri .zero)) ∧
    got (exec .manchOne State.reset) State.result = some (some (.tri .one)) ∧
    got (exec .manchInv1 State.reset) State.result = some (some (.tri .invalid)) := by decide

/-- V3. -/
theorem test_manch : got (exec (.manch false true) State.reset) State.result = some (some (.tri .zero)) ∧
    got (exec (.manch true false) State.reset) State.result = some (some (.tri .one)) := by decide

/-- V41, V44. -/
theorem test_manchSeq :
    got (exec (.manchSeq [true, false, false, true, true, true, false, true]) State.reset) State.result =
      some (some (.tris [.one, .zero, .invalid, .zero])) ∧
    got (exec (.manchSeq [true, false, true]) State.reset) State.result = some (some (.tris [.one])) := by decide

/-- V41, V44. -/
theorem test_manchTerm :
    got (exec (.manchTerm [.one, .zero, .invalid, .zero]) State.reset) State.result = some (some (.nat 2)) ∧
    got (exec (.manchTerm [.one, .zero]) State.reset) State.result = some (some (.nat 2)) := by decide

/-- R93. -/
theorem test_triState : got (exec (.triState 0b01#2) State.reset) State.result = some (some (.tri .one)) ∧
    got (exec (.triState 0b11#2) State.reset) State.result = some (some (.tri .invalid)) := by decide

/-! ## The buffer -/

/-- V50, and V52 on a full buffer whose head symbol is 1. -/
theorem test_bufPush : got (exec (.bufPush true) State.reset) State.buf = some [true] ∧
    got (exec (.bufPush true) (withM .searchingPreamble 0 [true] 1680)) (fun s => (s.buf.length, s.buf[0]?, s.buf[1679]?))
      = some (1680, some false, some true) := by decide +kernel

/-- V53. -/
theorem test_bufEvict : got (exec .bufEvict (withM .searchingPreamble 0 [true, false, true] 3)) State.buf =
    some [false, true] := by decide

/-- V54. -/
theorem test_bufRemove :
    got (exec (.bufRemove 208) (withM .searchingPreamble 0 [] 1680)) (fun s => s.buf.length) = some 1472 ∧
    got (exec (.bufRemove 2) (withM .searchingPreamble 0 [true, false, true] 3)) State.buf = some [true] := by
  decide +kernel

/-- R168. -/
theorem test_bufRead :
    got (exec (.bufRead 16) (withM .searchingPreamble 0 Config.sfd 40)) State.result = some (some (.bits Config.sfd)) ∧
    got (exec (.bufRead 16) (withM .searchingPreamble 0 [] 15)) State.result = none := by decide

/-! ## The frame synchronizer -/

/-- V62: the chip that fills the buffer behind a preamble. -/
theorem test_mzSym_preamble :
    got (exec (.mzSym false) (withM .searchingPreamble 0 Config.preamble 1679)) laneM =
      some (.searchingDelimiter, 0, 1680) := by decide +kernel

/-- V66, V96: the delimiter, then zeros. -/
theorem test_mzSym_empty_packet :
    got (exec (.mzSym false) (withM .searchingDelimiter 31 Config.sfd 1679)) (fun s => (laneM s, s.out)) =
      some ((.searchingPreamble, 0, 1664), ⟨none, none, some 0⟩) := by decide +kernel

/-- V61's compare. -/
theorem test_syncStep : got (exec .syncStep (withM .searchingPreamble 0 [] 1680)) laneM =
    some (.searchingPreamble, 0, 1679) := by decide +kernel

/-- V61, V62. -/
theorem test_syncPre :
    got (exec .syncPre (withM .searchingPreamble 0 Config.preamble 32)) laneM = some (.searchingDelimiter, 0, 32) ∧
    got (exec .syncPre (withM .searchingPreamble 0 [true] 32)) (fun s => (laneM s, s.condsM)) =
      some ((.searchingPreamble, 0, 31), [.patternMiss .preamble]) := by decide

/-- V64, with the limits 1680 and 6. -/
theorem test_syncSfd :
    got (exec .syncSfd (withM .searchingDelimiter 5 [] 16)) laneM = some (.searchingDelimiter, 6, 15) ∧
    got (exec .syncSfd { withM .searchingDelimiter 5 [] 16 with params := ⟨6, 0⟩ }) laneM =
      some (.searchingPreamble, 0, 15) := by decide

theorem test_syncBailout : got (exec .syncBailout (withM .searchingDelimiter 31 [] 3)) laneM =
    some (.searchingPreamble, 0, 3) := by decide

/-- V65: P4's twelve bytes, with the frame P4 gives. -/
theorem test_frameCapture :
    got (exec .frameCapture (withM .searchingDelimiter 31
      (Config.sfd ++ chipsOf (bitsOfBytes (header 0x0C ++ [0x42]))) 1680)) (fun s => (s.buf.length, s.out.zwave)) =
      some (1472, some ⟨0xC0FFEE01#32, 2#8, 0x4103#16, 12#8, 5#8, 0x25#8, 1#8, [0x42#8], 0x42#8, true⟩) := by
  decide +kernel

/-- R193. -/
theorem test_pktExtract :
    got (exec (.pktExtract (List.replicate 8 .one ++ [.one, .zero, .zero, .invalid]) 11) State.reset) State.result =
      some (some (.bits [true, false, false])) := by decide

/-- R94, R96. -/
theorem test_preamble_row :
    got (exec .preamble (withM .searchingPreamble 0 Config.preamble 40)) State.result = some (some (.bool true)) ∧
    got (exec .preamble (withM .searchingPreamble 0 [true, true] 40)) State.result = some (some (.bool false)) := by
  decide

/-- R95, R96. -/
theorem test_sfd_row :
    got (exec .sfd (withM .searchingDelimiter 0 Config.sfd 40)) State.result = some (some (.bool true)) ∧
    got (exec .sfd (withM .searchingDelimiter 0 [true, false] 40)) State.result = some (some (.bool false)) := by
  decide

/-! ## Field extractor and checksum -/

/-- V70. -/
theorem test_fxPack :
    got (exec (.fxPack (bitsOfBytes [0xA5, 0xF0] ++ [true, false, true])) State.reset) State.result =
      some (some (.bytes [0xA5#8, 0xF0#8])) := by decide

/-- V71. -/
theorem test_fxFields_short :
    got (exec (.fxFields (bitsOfBytes (header 0x0C))) State.reset) State.result = some (some (.fields none)) := by
  decide +kernel

/-- V72: 89 bits. -/
theorem test_fxFields_long :
    got (exec (.fxFields (bitsOfBytes (header 0x0C) ++ [true])) State.reset) State.result =
      some (some (.fields (some ⟨0xC0FFEE01#32, 2#8, 0x4103#16, 12#8, 5#8, 0x25#8, 1#8, [], 0x42#8, false⟩))) := by
  decide +kernel

/-- V73. -/
theorem test_zwBuild :
    got (exec (.zwBuild (bitsOfBytes (header 0x0C ++ [0x42]))) State.reset) State.result =
      some (some (.fields (some ⟨0xC0FFEE01#32, 2#8, 0x4103#16, 12#8, 5#8, 0x25#8, 1#8, [0x42#8], 0x42#8, true⟩))) := by
  decide +kernel

/-- V11's offsets on the packet of V73. -/
theorem test_zwPacket :
    got (exec (.zwPacket (bitsOfBytes (header 0x0C ++ [0x42]))) State.reset) State.result =
      some (some (.layout ⟨0xC0FFEE01#32, 2#8, 0x4103#16, 12#8, 5#8, 0x25#8, 1#8, [0x42#8]⟩)) := by decide +kernel

/-- V80. -/
theorem test_chkXor :
    got (exec (.chkXor []) State.reset) State.result = some (some (.byte 0xFF#8)) ∧
    got (exec (.chkXor ((header 0x0C).map (BitVec.ofNat 8))) State.reset) State.result = some (some (.byte 0x42#8)) := by
  decide

/-- V81, V87. -/
theorem test_chkRange :
    got (exec (.chkRange 0#8 12) State.reset) State.result = some (some (.nat 0)) ∧
    got (exec (.chkRange 13#8 12) State.reset) State.result = some (some (.nat 12)) := by decide

/-- V85, V87. -/
theorem test_chkOk :
    got (exec (.chkOk (headerBytes 12) 12#8 0x42#8) State.reset) State.result = some (some (.bool true)) ∧
    got (exec (.chkOk (headerBytes 13) 13#8 0x01#8) State.reset) State.result = some (some (.bool false)) := by decide

/-- V4, V5. -/
theorem test_chkFrame :
    got (exec (.chkFrame [0x01#8, 0x02#8, 0xFC#8]) State.reset) State.result = some (some (.checked 0xFC#8 true)) ∧
    got (exec (.chkFrame [0x01#8, 0x02#8, 0x00#8]) State.reset) State.result = some (some (.checked 0xFC#8 false)) := by
  decide

/-! ## Outputs and system operations -/

theorem test_emitDb : got (exec (.emitDb ⟨129#8, 1#4⟩) State.reset) State.out = some ⟨some ⟨129#8, 1#4⟩, none, none⟩ := by
  decide

theorem test_emitZw :
    got (exec (.emitZw ⟨1#32, 2#8, 3#16, 4#8, 5#8, 6#8, 7#8, [8#8], 9#8, false⟩) State.reset)
      (fun s => (portZwValid s.out, portZwPayloadLen s.out, portZwPayload s.out 0, portZwCrcOk s.out)) =
      some (true, some 1#7, some 8#8, some false) := by decide

theorem test_emitFail : got (exec (.emitFail 88) State.reset) (fun s => portZwFailBits s.out) = some (some 88#7) := by
  decide

/-- V100. -/
theorem test_rst :
    got (exec .rst { withP true 77 90 [true, false, true] with
      syncState := .searchingDelimiter, sfdAttempts := 12, buf := [true], halted := true }) id = some State.reset := by
  decide

/-- V101, V104: after the cancel a symbol changes nothing. -/
theorem test_cancel :
    got (exec .cancel (withP false 80 90 [true])) (fun s => (laneP s, s.halted)) = some ((false, 80, 90, [true]), true) ∧
    got (exec (.pwSym true) { withP false 80 90 [true] with halted := true }) laneP = some (false, 80, 90, [true]) := by
  decide

/-- V103. -/
theorem test_idle : got (exec .idle (withP true 3 9 [true])) id = some (withP true 3 9 [true]) := by decide

/-- R264: a rising edge at index 0 (V31) and a falling one at index 1. -/
theorem test_batch :
    got (exec (.batch .p [true, false]) State.reset) (fun s => (laneP s, s.result)) =
      some ((false, 1, 2, [true]), some (.batch [Outputs.none, Outputs.none] 2)) := by decide

/-- V105: both lanes in one step. -/
theorem test_step_both_lanes :
    got (step (withWords [0x0B#6] State.reset)) (fun s => (laneP s, s.buf)) = some ((true, 0, 1, []), [false]) := by
  decide

/-- V102: the word 13 is a cancel, the symbol is not accepted. -/
theorem test_step_cancel_word :
    got (step (withWords [0x13#6] State.reset)) (fun s => (laneP s, s.halted)) = some ((false, 0, 0, []), true) := by
  decide

/-! ## Witnesses: the hypotheses of the statements are met -/

theorem witness_StepRunsThePresentedWord :
    State.reset.inputs = [] ∧ (withWords [0x03#6] State.reset).inputs = 0x03#6 :: [] ∧
    decodeInputWord 0x03#6 = [.pwSym true] ∧ (withWords [0x0F#6, 0x20#6] State.reset).inputs = 0x0F#6 :: [0x20#6] ∧
    decodeInputWord 0x0F#6 = [.pwSym true, .mzSym true] := by decide

theorem witness_InputWordSelectsOperations :
    (0x20#6).getLsbD 5 = true ∧
    ((0x1F#6).getLsbD 5 = false ∧ (0x1F#6).getLsbD 4 = true) ∧
    ((0x05#6).getLsbD 5 = false ∧ (0x05#6).getLsbD 4 = false ∧ (0x05#6).getLsbD 3 = false ∧ (0x05#6).getLsbD 1 = false) ∧
    ((0x06#6).getLsbD 5 = false ∧ (0x06#6).getLsbD 4 = false ∧ (0x06#6).getLsbD 3 = false ∧ (0x06#6).getLsbD 1 = true) ∧
    ((0x09#6).getLsbD 5 = false ∧ (0x09#6).getLsbD 4 = false ∧ (0x09#6).getLsbD 3 = true ∧ (0x09#6).getLsbD 1 = false) ∧
    ((0x0E#6).getLsbD 5 = false ∧ (0x0E#6).getLsbD 4 = false ∧ (0x0E#6).getLsbD 3 = true ∧ (0x0E#6).getLsbD 1 = true) := by
  decide

theorem witness_DecodeOfEncodeIsTheInstruction :
    ((Instr.doorbell13 (List.replicate 13 true)).wf = true ∧
      encode (.doorbell13 (List.replicate 13 true)) = some (.doorbell (List.replicate 13 true))) ∧
    ((Instr.batch .m [true]).wf = true ∧ encode (.batch .m [true]) = some (.inputWords [0x0C#6])) ∧
    ((Instr.manch true true).wf = true ∧ encode (.manch true true) = some (.chipPair 0b11#2)) := by decide

theorem witness_PulseClassTable : (4 ≤ 4) ∧ (5 ≤ 5 ∧ 5 ≤ 50) ∧ (50 ≤ 50) ∧ 51 ≤ 51 := by decide

theorem witness_LevelSymbolActsAsItsClass :
    { State.reset with halted := true }.halted = true ∧ State.reset.halted = false := by decide

theorem witness_PulseClassEffects :
    (withP true 100 103 []).pwAcc.length ≠ 12 ∧ (withP true 100 103 (List.replicate 11 true)).pwAcc.length ≠ 12 ∧
    (withP true 100 103 (List.replicate 12 true)).pwAcc.length = 12 := by decide

theorem witness_UnchangedLevelAdvancesIndexOnly :
    (withP true 100 130 [true]).halted = false ∧ true = (withP true 100 130 [true]).pwLastLevel := by decide

theorem witness_LongPulseLeavesOneZeroBit :
    (withP true 100 151 [true]).halted = false ∧ (withP true 100 151 [true]).pwLastLevel = true ∧
    50 < (withP true 100 151 [true]).pwIndex - (withP true 100 151 [true]).pwLastTransitionIndex := by decide

/-- At 4, 5 and 50 samples. -/
theorem witness_ThirteenthBitEmitsTheFrame : ∀ index ∈ [104, 105, 150],
    (withP true 100 index (List.replicate 12 true)).halted = false ∧
    (withP true 100 index (List.replicate 12 true)).pwLastLevel = true ∧
    (withP true 100 index (List.replicate 12 true)).pwAcc.length = 12 ∧
    (withP true 100 index (List.replicate 12 true)).pwIndex -
      (withP true 100 index (List.replicate 12 true)).pwLastTransitionIndex ≤ 50 := by decide

theorem witness_TimingInternalOperations : 4 ≤ 4 ∧ 4 < 5 := by decide

theorem witness_DoorbellFieldsClosedForm : (List.replicate 13 true : List Bit).length = 13 := by decide

/-- The second part's hypotheses are those of `witness_ThirteenthBitEmitsTheFrame`. -/
theorem witness_CompletionEmitsAndClears : (withP false 103 104 (List.replicate 13 true)).pwAcc.length = 13 ∧
    (withP true 100 150 (List.replicate 12 true)).halted = false ∧
    (withP true 100 150 (List.replicate 12 true)).pwLastLevel = true ∧
    (withP true 100 150 (List.replicate 12 true)).pwIndex -
      (withP true 100 150 (List.replicate 12 true)).pwLastTransitionIndex ≤ 50 ∧
    (withP true 100 150 (List.replicate 12 true)).pwAcc.length = 12 := by decide

theorem witness_SequenceDecodedPairwise : 0 < [true, false, true].length / 2 := by decide

theorem witness_TerminatorIsFirstInvalid :
    0 < terminator [.one, .invalid] ∧ terminator [.one, .invalid] < [Tri.one, .invalid].length := by decide

theorem witness_PushAppendsAtTheTail :
    State.reset.buf.length ≤ 1680 ∧ (withM .searchingPreamble 0 [] 1679).buf.length ≠ 1680 ∧
    0 < (withM .searchingPreamble 0 [] 1679).buf.length ∧ (withM .searchingPreamble 0 [] 1680).buf.length = 1680 := by
  decide +kernel

theorem witness_LeadingWindowRead : 16 ≤ (withM .searchingPreamble 0 [] 16).buf.length ∧
    0 ≤ State.reset.buf.length := by decide

theorem witness_StopsOutsideTheRules :
    (withM .searchingPreamble 0 [] 31).buf.length < 32 ∧ (withM .searchingPreamble 0 [] 15).buf.length < 16 ∧
    (withM .searchingDelimiter 0 Config.sfd 1679).buf.length < 1680 ∧
    16 ≤ (withM .searchingDelimiter 0 Config.sfd 1679).buf.length ∧
    (withM .searchingDelimiter 0 Config.sfd 1679).buf.take 16 = Config.sfd ∧
    (withP true 0 1 (List.replicate 12 true)).pwAcc.length ≠ 13 ∧ (List.replicate 14 true : List Bit).length ≠ 13 ∧
    (List.replicate 88 true : List Bit).length ≤ 88 ∧ [Tri.one].length < 2 ∧
    (8 ≤ 8 ∧ 8 < 9 ∧ (List.replicate 8 Tri.one ++ [.invalid])[8]? = some .invalid) := by decide +kernel

theorem witness_PatternRowsCompareTheWindow :
    32 ≤ (withM .searchingPreamble 0 Config.preamble 32).buf.length ∧
    16 ≤ (withM .searchingDelimiter 0 Config.sfd 16).buf.length := by decide

/-- On a full buffer, where the step pushes, evicts and compares. -/
theorem witness_BufferNeverExceedsCapacity :
    (withWords [0x08#6] (withM .searchingPreamble 0 [] 1680)).buf.length ≤ 1680 ∧
    got (step (withWords [0x08#6] (withM .searchingPreamble 0 [] 1680))) (fun s => s.buf.length) = some 1679 := by
  decide +kernel

theorem witness_BufferIsARunOfTheStream :
    (got (step (withWords [0x20#6] State.reset)) State.buf = some [] ∧ (0x20#6).getLsbD 5 = true) ∧
    (got (step (withWords [0x0C#6] State.reset)) State.buf = some [true] ∧ (0x0C#6).getLsbD 5 = false) := by decide

theorem witness_ChipIsPushedThenComparedWhenFull :
    { State.reset with halted := true }.halted = true ∧ State.reset.halted = false ∧
    (withM .searchingPreamble 0 [] 1678).buf.length ≠ 1679 ∧ (withM .searchingPreamble 0 [] 1678).buf.length ≠ 1680 ∧
    (withM .searchingPreamble 0 [] 1679).buf.length = 1679 ∧ (withM .searchingDelimiter 0 [] 1680).buf.length = 1680 := by
  decide +kernel

theorem witness_CompareChosenByState :
    (withM .searchingPreamble 0 [] 1680).buf.length = 1680 ∧
    (withM .searchingPreamble 0 [] 1680).syncState = .searchingPreamble ∧
    (withM .searchingDelimiter 0 [] 1680).buf.length = 1680 ∧
    (withM .searchingDelimiter 0 [] 1680).syncState = .searchingDelimiter := by decide +kernel

theorem witness_PreambleCompare :
    32 ≤ (withM .searchingPreamble 0 Config.preamble 32).buf.length ∧
    (withM .searchingPreamble 0 Config.preamble 32).buf.take 32 = Config.preamble ∧
    (withM .searchingPreamble 0 [] 32).buf.take 32 ≠ Config.preamble := by decide

/-- Attempts one below the limit, at it, and a match. -/
theorem witness_DelimiterCompare :
    (16 ≤ (withM .searchingDelimiter 1678 [] 16).buf.length ∧
      (withM .searchingDelimiter 1678 [] 16).buf.take 16 ≠ Config.sfd ∧
      (withM .searchingDelimiter 1678 [] 16).sfdAttempts + 1 <
        (withM .searchingDelimiter 1678 [] 16).params.sfdAttemptLimit) ∧
    (withM .searchingDelimiter 1679 [] 16).params.sfdAttemptLimit ≤
      (withM .searchingDelimiter 1679 [] 16).sfdAttempts + 1 ∧
    (1680 ≤ (withM .searchingDelimiter 0 Config.sfd 1680).buf.length ∧
      (withM .searchingDelimiter 0 Config.sfd 1680).buf.take 16 = Config.sfd) := by decide +kernel

/-- Packets of 88 and of 89 bits, and a window of zeros, which has no delimiter and the terminator 0. -/
theorem witness_CaptureEmitsAndRemoves :
    let idle := withM .searchingDelimiter 0 [] 1680
    let short := withM .searchingDelimiter 0 (Config.sfd ++ chipsOf (List.replicate 88 true)) 1680
    let long := withM .searchingDelimiter 0 (Config.sfd ++ chipsOf (List.replicate 89 true)) 1680
    (1680 ≤ idle.buf.length ∧ terminator (manchPairs (idle.buf.take 1680)) = 0 ∧
      (packetOf (manchPairs (idle.buf.take 1680)) (terminator (manchPairs (idle.buf.take 1680)))).length = 0) ∧
    (1680 ≤ short.buf.length ∧ short.buf.take 16 = Config.sfd ∧
      (packetOf (manchPairs (short.buf.take 1680)) (terminator (manchPairs (short.buf.take 1680)))).length = 88) ∧
    (1680 ≤ long.buf.length ∧ long.buf.take 16 = Config.sfd ∧
      (packetOf (manchPairs (long.buf.take 1680)) (terminator (manchPairs (long.buf.take 1680)))).length = 89) := by
  decide +kernel

theorem witness_PacketIsTheBitsBeforeTheTerminator :
    8 ≤ 9 ∧ 9 ≤ [Tri.one, .one, .one, .one, .zero, .zero, .zero, .zero, .one, .invalid].length ∧
    ∀ k : Fin 9, 8 ≤ k.val →
      [Tri.one, .one, .one, .one, .zero, .zero, .zero, .zero, .one, .invalid][k.val]? ≠ some .invalid := by decide

/-- Packets of 88 and of 89 bits, the terminator 0 0, then zeros. -/
theorem witness_TransmittedPacketIsCaptured : ∀ n ∈ [88, 89],
    let s := withM .searchingDelimiter 31 (Config.sfd ++ chipsOf (List.replicate n true)) 1679
    s.halted = false ∧ s.syncState = .searchingDelimiter ∧ s.buf.length = 1679 ∧
    s.buf ++ [false] = Config.sfd ++ chipsOf (List.replicate n true) ++
      false :: false :: List.replicate (1662 - 2 * n) false := by decide +kernel

/-- The six rows: not full; preamble, and none; delimiter; none, with attempts left and with none left; and halted. -/
theorem witness_SynchronizerTransitions :
    { withM .searchingDelimiter 7 Config.sfd 1679 with halted := true }.halted = true ∧
    got (exec (.mzSym false) (withM .searchingPreamble 0 [] 100)) laneM = some (.searchingPreamble, 0, 101) ∧
    got (exec (.mzSym false) (withM .searchingPreamble 0 Config.preamble 1679)) laneM =
      some (.searchingDelimiter, 0, 1680) ∧
    got (exec (.mzSym false) (withM .searchingPreamble 0 [] 1679)) laneM = some (.searchingPreamble, 0, 1679) ∧
    got (exec (.mzSym false) (withM .searchingDelimiter 7 Config.sfd 1679)) laneM = some (.searchingPreamble, 0, 1664) ∧
    got (exec (.mzSym false) (withM .searchingDelimiter 0 [] 1680)) laneM = some (.searchingDelimiter, 1, 1679) ∧
    got (exec (.mzSym false) (withM .searchingDelimiter 1679 [] 1679)) laneM = some (.searchingPreamble, 0, 1679) := by
  decide +kernel

/-- A delimiter search with one attempt left, as a limit of 1 gives it at once. -/
def searching : State :=
  { withM .searchingDelimiter 0 [] 1679 with params := ⟨1, 0⟩, inputs := [0x0C#6] }

theorem searching_inv : searching.Inv where
  acc := by decide
  buf := by decide +kernel
  searching := by decide
  delimiter := by decide +kernel
  transition := by decide
  edge := .inr ⟨rfl, rfl, rfl⟩
  origin := by decide
  limit := by decide
  full := by decide +kernel
  out := ⟨.inl rfl, (by intro f h; cases h), (by intro n h; cases h)⟩
  result := rfl

theorem witness_DelimiterSearchEnds :
    searching.Inv ∧ searching.halted = false ∧ searching.syncState = .searchingDelimiter ∧
    searching.inputs = [true].map (fun b => if b then 0b001100#6 else 0b001000#6) ∧
    [true].length = searching.params.sfdAttemptLimit - searching.sfdAttempts :=
  ⟨searching_inv, rfl, rfl, rfl, rfl⟩

theorem witness_PackingIsMostSignificantFirst : 0 < (List.replicate 15 true).length / 8 := by decide

/-- For FieldsNeedMoreThanTheHeader, FrameBuiltFromBytes and LayoutByBitsIsLayoutByBytes. -/
theorem witness_packets_of_88_and_89_bits :
    88 < (List.replicate 89 true).length ∧ (List.replicate 88 true).length ≤ 88 := by decide

theorem witness_ChecksumIsOrderFree : [2#8, 1#8].Perm [1#8, 2#8] ∧ ([] : List Byte) = [] :=
  ⟨.swap 1#8 2#8 [], rfl⟩

/-- Length 0, length 1, the last byte received, and one beyond it. -/
theorem witness_ChecksumRangeAndFlag :
    (0#8 : BitVec 8) = 0#8 ∧ 1#8 ≠ 0#8 ∧
    (1 ≤ (1#8).toNat ∧ (headerBytes 1)[(1#8).toNat - 1]? = some 0xC0#8) ∧
    (1 ≤ (12#8).toNat ∧ (headerBytes 12)[(12#8).toNat - 1]? = some 0x42#8) ∧
    (0#8).toNat = 0 ∧ (headerBytes 13).length < (13#8).toNat := by decide

theorem witness_FrameChecksumIsOfItsFirstLengthBytes : ∀ len ∈ [1, 12],
    88 < (bitsOfBytes (header len ++ [0x42])).length ∧
    1 ≤ (buildFrame (bitsOfBytes (header len ++ [0x42]))).length.toNat ∧
    (buildFrame (bitsOfBytes (header len ++ [0x42]))).length.toNat ≤
      (packBytes (bitsOfBytes (header len ++ [0x42]))).length := by decide +kernel

theorem witness_EmissionsReachTheOutputs :
    (⟨some ⟨129#8, 1#4⟩, none, none⟩ : Outputs).doorbell = some ⟨129#8, 1#4⟩ ∧
    (⟨none, some (buildFrame (List.replicate 832 true)), none⟩ : Outputs).zwave =
      some (buildFrame (List.replicate 832 true)) ∧ (buildFrame (List.replicate 832 true)).payload.length = 93 ∧
    (⟨none, none, some 88⟩ : Outputs).fail = some 88 ∧
    (⟨none, none, some 88⟩ : Outputs).doorbell = none ∧ (⟨none, none, some 88⟩ : Outputs).zwave = none ∧
    (⟨some ⟨129#8, 1#4⟩, none, none⟩ : Outputs).fail = none := by decide +kernel

theorem witness_CancelSetsHaltedOnly :
    (withWords [0x1F#6] State.reset).inputs = 0x1F#6 :: [] ∧ (0x1F#6).getLsbD 5 = false ∧ (0x1F#6).getLsbD 4 = true := by
  decide

/-- A word of neither lane, one of lane M alone, and one of lane P alone. -/
theorem witness_IdleChangesNothing :
    ((0x05#6).getLsbD 5 = false ∧ (0x05#6).getLsbD 4 = false ∧ (0x05#6).getLsbD 3 = false ∧ (0x05#6).getLsbD 1 = false) ∧
    ((0x0C#6).getLsbD 5 = false ∧ (0x0C#6).getLsbD 4 = false ∧ (0x0C#6).getLsbD 1 = false ∧
      got (step (withWords [0x0C#6] State.reset)) State.buf = some [true]) ∧
    ((0x03#6).getLsbD 5 = false ∧ (0x03#6).getLsbD 4 = false ∧ (0x03#6).getLsbD 3 = false ∧
      got (step (withWords [0x03#6] State.reset)) State.pwIndex = some 1) := by decide

theorem witness_HaltedStepsChangeNothing :
    let s := withWords [0x0F#6] { State.reset with halted := true }
    s.halted = true ∧ s.inputs = 0x0F#6 :: [] ∧ (0x0F#6).getLsbD 5 = false := by decide

theorem witness_ResetWordAlwaysResets :
    (withWords [0x3F#6, 0x02#6] State.reset).inputs = 0x3F#6 :: [0x02#6] ∧ (0x3F#6).getLsbD 5 = true := by decide

theorem witness_BatchIsItsSingleSteps : 0 ≤ [true].length ∧ 1 = 0 + 1 ∧ 1 = [true].length := by decide

/-- Each lane's symbol completes and changes its own lane. -/
theorem witness_LanesOwnTheirState :
    got (exec (.pwSym true) State.reset) laneP = some (true, 0, 1, []) ∧
    got (exec (.mzSym true) State.reset) State.buf = some [true] := by decide

theorem reset_inv : State.reset.Inv where
  acc := by decide
  buf := by decide
  searching := by decide
  delimiter := by decide
  transition := by decide
  edge := .inr ⟨rfl, rfl, rfl⟩
  origin := by decide
  limit := by decide
  full := by decide
  out := ⟨.inl rfl, (by intro f h; cases h), (by intro n h; cases h)⟩
  result := rfl

/-- From the reset state, and from a delimiter search at its last attempt. -/
theorem witness_StepKeepsTheInvariants :
    State.reset.Inv ∧ got (step State.reset) laneM = some (.searchingPreamble, 0, 0) ∧
    searching.Inv ∧ got (step searching) laneM = some (.searchingPreamble, 0, 1679) :=
  ⟨reset_inv, by decide, searching_inv, by decide +kernel⟩

theorem witness_ResetHasTheInvariants : 1 ≤ (⟨1, 7⟩ : Params).sfdAttemptLimit := by decide

theorem witness_ParametersNeverChange :
    got (step (withWords [0x20#6, 0x03#6] { State.reset with params := ⟨5, 7⟩ }))
      (fun s => (s.params, s.inputs, s.pwIndex)) = some (⟨5, 7⟩, [0x03#6], 7) := by decide

/-- Two states 1000 samples apart, the same pulse under way, complete a frame alike. -/
theorem witness_OutputsDoNotDependOnTheOrigin :
    State.SameButIndices (withWords [0x02#6] (withP true 100 109 (List.replicate 12 true)))
      (withWords [0x02#6] (withP true 1100 1109 (List.replicate 12 true))) ∧
    got (step (withWords [0x02#6] (withP true 100 109 (List.replicate 12 true)))) State.out =
      some ⟨some ⟨255#8, 7#4⟩, none, none⟩ :=
  ⟨⟨rfl, rfl, rfl, rfl, rfl, rfl, rfl, rfl, rfl, by decide, .inl (by decide)⟩, by decide⟩

/-- The chips of a frame whose checksum fails, and of one whose checksum holds (P7, P4). -/
def frameChips (last : Nat) : List Bit := Config.sfd ++ chipsOf (bitsOfBytes (header 0x0C ++ [last]))

theorem witness_MismatchIsReportedNotRejected_chip : ∀ last ∈ [0x00, 0x42],
    let s := withM .searchingDelimiter 31 (frameChips last) 1679
    let w := (if s.buf.length = 1680 then s.buf.drop 1 else s.buf) ++ [false]
    s.halted = false ∧ s.syncState = .searchingDelimiter ∧ w.length = 1680 ∧ w.take 16 = Config.sfd ∧
    88 < (packetOf (manchPairs w) (terminator (manchPairs w))).length ∧
    (buildFrame (packetOf (manchPairs w) (terminator (manchPairs w)))).crcOk = decide (last = 0x42) := by
  decide +kernel

theorem witness_MismatchIsReportedNotRejected_capture : ∀ last ∈ [0x00, 0x42],
    let s := withM .searchingDelimiter 31 (frameChips last) 1680
    s.buf.length = 1680 ∧ s.buf.take 16 = Config.sfd ∧
    88 < (packetOf (manchPairs s.buf) (terminator (manchPairs s.buf))).length ∧
    (buildFrame (packetOf (manchPairs s.buf) (terminator (manchPairs s.buf)))).crcOk = decide (last = 0x42) := by
  decide +kernel

end Tests

end Sys2Proof
end

/-! PROOFS. The statements about the state (10_state.md): which lane owns which element (R29), the parameters (R32), the
record of a step (R35), and the invariants of R36. The invariants are cut by owner, so that an operation of one lane
has only its own lane's part to keep and the frame lemmas carry the other part over. -/

namespace Sys2Proof

namespace Machine

/-! ## Ownership (R29) -/

/-- Lane P's four elements are the same. -/
structure State.SameElementsP (s t : State) : Prop where
  level : t.pwLastLevel = s.pwLastLevel
  transition : t.pwLastTransitionIndex = s.pwLastTransitionIndex
  index : t.pwIndex = s.pwIndex
  acc : t.pwAcc = s.pwAcc

/-- Lane M's three elements are the same. -/
structure State.SameElementsM (s t : State) : Prop where
  buf : t.buf = s.buf
  syncState : t.syncState = s.syncState
  sfdAttempts : t.sfdAttempts = s.sfdAttempts

/-- What no symbol operation of either lane writes is the same. -/
structure State.SameShared (s t : State) : Prop where
  halted : t.halted = s.halted
  params : t.params = s.params
  inputs : t.inputs = s.inputs
  result : t.result = s.result

/-- Nothing differs that is not lane M's: what an operation of lane M leaves as it was. -/
structure State.SameButLaneM (s t : State) : Prop extends State.SameElementsP s t, State.SameShared s t where
  condsP : t.condsP = s.condsP
  doorbell : t.out.doorbell = s.out.doorbell

/-- Nothing differs that is not lane P's: what an operation of lane P leaves as it was. -/
structure State.SameButLaneP (s t : State) : Prop extends State.SameElementsM s t, State.SameShared s t where
  condsM : t.condsM = s.condsM
  zwave : t.out.zwave = s.out.zwave
  fail : t.out.fail = s.out.fail

theorem State.SameButLaneM.trans {s t u : State} (h : s.SameButLaneM t) (k : t.SameButLaneM u) :
    s.SameButLaneM u where
  level := k.level.trans h.level
  transition := k.transition.trans h.transition
  index := k.index.trans h.index
  acc := k.acc.trans h.acc
  halted := k.halted.trans h.halted
  params := k.params.trans h.params
  inputs := k.inputs.trans h.inputs
  result := k.result.trans h.result
  condsP := k.condsP.trans h.condsP
  doorbell := k.doorbell.trans h.doorbell

/-! ### Lane P's operation -/

theorem exec_pwSym (b : Bit) (s : State) : exec (.pwSym b) s = unlessHalted s (fun s => .next (acceptLevel b s)) := rfl

/-- All that PW.SYM can do: nothing while halted, else one accepted level (R120, R266). -/
theorem pwSym_cases {b : Bit} {s t : State} (h : exec (.pwSym b) s = .next t) : t = s ∨ t = acceptLevel b s := by
  rw [exec_pwSym] at h
  cases hh : s.halted with
  | true => rw [unlessHalted_true hh] at h; cases h; exact .inl rfl
  | false => rw [unlessHalted_false hh] at h; cases h; exact .inr rfl

theorem acceptLevel_sameButLaneP (level : Bit) (s : State) : s.SameButLaneP (acceptLevel level s) := by
  by_cases h : level = s.pwLastLevel
  · rw [acceptLevel_hold h]; exact ⟨⟨rfl, rfl, rfl⟩, ⟨rfl, rfl, rfl, rfl⟩, rfl, rfl, rfl⟩
  · rw [acceptLevel_edge h rfl rfl]
    exact ⟨⟨rfl, rfl, rfl⟩, ⟨rfl, rfl, rfl, rfl⟩, rfl, by dsimp only; split <;> rfl, by dsimp only; split <;> rfl⟩

/-- PW.SYM writes lane P alone (R29). -/
theorem pwSym_sameButLaneP {b : Bit} {s t : State} (h : exec (.pwSym b) s = .next t) : s.SameButLaneP t := by
  rcases pwSym_cases h with rfl | rfl
  · exact ⟨⟨rfl, rfl, rfl⟩, ⟨rfl, rfl, rfl, rfl⟩, rfl, rfl, rfl⟩
  · exact acceptLevel_sameButLaneP b s

/-! ### Lane M's operation -/

theorem exec_mzSym (b : Bit) (s : State) : exec (.mzSym b) s = unlessHalted s (fun s => acceptChip b s) := rfl

/-- All that MZ.SYM can do: nothing while halted, else the push of its chip, with one compare when the buffer is then
full (R165, R185, R266). -/
theorem mzSym_cases {b : Bit} {s t : State} (h : exec (.mzSym b) s = .next t) :
    t = s ∨ (pushSymbol b s).buf.length ≠ 1680 ∧ t = pushSymbol b s ∨
      (pushSymbol b s).buf.length = 1680 ∧ syncCompare (pushSymbol b s) = .next t := by
  rw [exec_mzSym] at h
  cases hh : s.halted with
  | true => rw [unlessHalted_true hh] at h; cases h; exact .inl rfl
  | false =>
    rw [unlessHalted_false hh] at h
    unfold acceptChip at h
    split at h
    next hl => exact .inr (.inr ⟨hl, h⟩)
    next hl => cases h; exact .inr (.inl ⟨hl, rfl⟩)

theorem pushSymbol_sameButLaneM (b : Bit) (s : State) : s.SameButLaneM (pushSymbol b s) := by
  rw [pushSymbol_eq]; exact ⟨⟨rfl, rfl, rfl, rfl⟩, ⟨rfl, rfl, rfl, rfl⟩, rfl, rfl⟩

theorem captureWindow_sameButLaneM (w : List Bit) (s : State) : s.SameButLaneM (captureWindow w s) := by
  rw [captureWindow_eq rfl]
  exact ⟨⟨rfl, rfl, rfl, rfl⟩, ⟨rfl, rfl, rfl, rfl⟩, rfl, by dsimp only; split <;> rfl⟩

theorem enterSync_sameButLaneM (st : SyncState) (s : State) : s.SameButLaneM (enterSync st s) :=
  ⟨⟨rfl, rfl, rfl, rfl⟩, ⟨rfl, rfl, rfl, rfl⟩, rfl, rfl⟩

/-- A compare on a full buffer writes lane M alone. -/
theorem syncCompare_sameButLaneM {s t : State} (hl : s.buf.length = 1680) (h : syncCompare s = .next t) :
    s.SameButLaneM t := by
  obtain ⟨t', ht', hcases⟩ := syncCompare_cases hl
  cases ht'.symm.trans h
  rcases hcases with ⟨-, -, rfl⟩ | ⟨-, -, rfl⟩ | ⟨-, -, rfl⟩ | ⟨-, -, -, rfl⟩ | ⟨-, -, -, rfl⟩
  case inr.inr.inl => exact (captureWindow_sameButLaneM s.buf s).trans (enterSync_sameButLaneM _ _)
  all_goals exact ⟨⟨rfl, rfl, rfl, rfl⟩, ⟨rfl, rfl, rfl, rfl⟩, rfl, rfl⟩

/-- MZ.SYM writes lane M alone (R29). -/
theorem mzSym_sameButLaneM {b : Bit} {s t : State} (h : exec (.mzSym b) s = .next t) : s.SameButLaneM t := by
  rcases mzSym_cases h with rfl | ⟨-, rfl⟩ | ⟨hl, hc⟩
  · exact ⟨⟨rfl, rfl, rfl, rfl⟩, ⟨rfl, rfl, rfl, rfl⟩, rfl, rfl⟩
  · exact pushSymbol_sameButLaneM b s
  · exact (pushSymbol_sameButLaneM b s).trans (syncCompare_sameButLaneM hl hc)

/-! ## What a step can do (R260) -/

/-- The shapes of what an input word selects, for any symbols (R90). -/
theorem decodeInputWord_shapes (iw : BitVec 6) :
    decodeInputWord iw = [.rst] ∨ decodeInputWord iw = [.cancel] ∨ decodeInputWord iw = [.idle] ∨
    (∃ b, decodeInputWord iw = [.pwSym b]) ∨ (∃ c, decodeInputWord iw = [.mzSym c]) ∨
    (∃ b c, decodeInputWord iw = [.pwSym b, .mzSym c]) := by
  simp only [Bool.exists_bool]; exact decodeInputWord_cases iw

/-- A step takes its word; it then resets, or halts, or runs lane P's symbol operation or none, and after it lane M's or
none. -/
theorem step_cases {s t : State} (h : step s = .next t) :
    t = resetElements (takeWord s) ∨ t = setHalted (takeWord s) ∨
    ∃ u, (u = takeWord s ∨ ∃ b, exec (.pwSym b) (takeWord s) = .next u) ∧
      (t = u ∨ ∃ c, exec (.mzSym c) u = .next t) := by
  unfold step at h
  rcases decodeInputWord_shapes (presentedWord s) with hd | hd | hd | ⟨b, hd⟩ | ⟨c, hd⟩ | ⟨b, c, hd⟩ <;> rw [hd] at h
  · cases h; exact .inl rfl
  · cases h; exact .inr (.inl rfl)
  · cases h; exact .inr (.inr ⟨_, .inl rfl, .inl rfl⟩)
  · rw [runAll_single] at h; exact .inr (.inr ⟨t, .inr ⟨b, h⟩, .inl rfl⟩)
  · rw [runAll_single] at h; exact .inr (.inr ⟨_, .inl rfl, .inr ⟨c, h⟩⟩)
  · rw [runAll_pair, andThen_eq_next] at h
    obtain ⟨u, hp, hm⟩ := h
    exact .inr (.inr ⟨u, .inr ⟨b, hp⟩, .inr ⟨c, hm⟩⟩)

/-- A step keeps the parameters and the words left of the state whose word is taken. -/
theorem step_params_inputs {s t : State} (h : step s = .next t) :
    t.params = (takeWord s).params ∧ t.inputs = (takeWord s).inputs := by
  rcases step_cases h with rfl | rfl | ⟨u, hu, ht⟩
  · exact ⟨rfl, rfl⟩
  · exact ⟨rfl, rfl⟩
  · have hp : u.params = (takeWord s).params ∧ u.inputs = (takeWord s).inputs := by
      rcases hu with rfl | ⟨b, hb⟩
      · exact ⟨rfl, rfl⟩
      · exact ⟨(pwSym_sameButLaneP hb).params, (pwSym_sameButLaneP hb).inputs⟩
    rcases ht with rfl | ⟨c, hc⟩
    · exact hp
    · have hframe := mzSym_sameButLaneM hc
      exact ⟨hframe.params.trans hp.1, hframe.inputs.trans hp.2⟩

/-! ## The invariants by owner (R36) -/

/-- The invariants of lane P's elements: I1, I5 and I6. -/
structure State.LanePInv (s : State) : Prop where
  acc : s.pwAcc.length ≤ 12
  transition : s.pwLastTransitionIndex ≤ s.pwIndex
  edge : s.pwLastTransitionIndex < s.pwIndex ∨ s.NoEdgeYet
  origin : s.params.indexOrigin ≤ s.pwIndex

/-- The invariants of lane M's elements: I2, I3, I4, the limit's range (R7) and the full buffer (R170). -/
structure State.LaneMInv (s : State) : Prop where
  buf : s.buf.length ≤ 1680
  searching : s.syncState = .searchingPreamble → s.sfdAttempts = 0
  delimiter : s.syncState = .searchingDelimiter → s.sfdAttempts < s.params.sfdAttemptLimit ∧ 1679 ≤ s.buf.length
  limit : 1 ≤ s.params.sfdAttemptLimit
  full : s.buf.length = 1680 → s.syncState = .searchingDelimiter ∧ s.sfdAttempts = 0

/-- The invariants are lane P's, lane M's, and those of the record. -/
theorem inv_iff {s : State} : s.Inv ↔ s.LanePInv ∧ s.LaneMInv ∧ s.out.Sound ∧ s.result = none := by
  constructor
  · intro h
    exact ⟨⟨h.acc, h.transition, h.edge, h.origin⟩, ⟨h.buf, h.searching, h.delimiter, h.limit, h.full⟩, h.out, h.result⟩
  · rintro ⟨hP, hM, hout, hres⟩
    exact ⟨hP.acc, hM.buf, hM.searching, hM.delimiter, hP.transition, hP.edge, hP.origin, hM.limit, hM.full, hout, hres⟩

/-- Lane P's invariants are about lane P's elements and the origin alone. -/
theorem State.LanePInv.congr {s t : State} (hs : s.LanePInv) (he : s.SameElementsP t) (hp : t.params = s.params) :
    t.LanePInv := by
  obtain ⟨hlevel, htrans, hindex, hacc⟩ := he
  refine ⟨hacc ▸ hs.acc, ?_, ?_, ?_⟩
  · rw [htrans, hindex]; exact hs.transition
  · rw [htrans, hindex]
    exact hs.edge.imp_right fun e => ⟨hlevel.trans e.level, htrans.trans e.index, hacc.trans e.acc⟩
  · rw [hp, hindex]; exact hs.origin

/-- Lane M's invariants are about lane M's elements and the limit alone. -/
theorem State.LaneMInv.congr {s t : State} (hs : s.LaneMInv) (he : s.SameElementsM t) (hp : t.params = s.params) :
    t.LaneMInv := by
  obtain ⟨hbuf, hsync, hatt⟩ := he
  constructor <;> simp only [hbuf, hsync, hatt, hp]
  exacts [hs.buf, hs.searching, hs.delimiter, hs.limit, hs.full]

/-- The soundness of the outputs is about lane M's outputs alone. -/
theorem Outputs.Sound.congr {o p : Outputs} (ho : o.Sound) (hz : p.zwave = o.zwave) (hf : p.fail = o.fail) :
    p.Sound := by
  constructor <;> simp only [hz, hf]
  exacts [ho.exclusive, ho.payload, ho.short]

/-- A state with the same elements and parameters keeps the invariants, if its own record is sound. -/
theorem State.Inv.of_sameElements {s t : State} (hs : s.Inv) (heP : s.SameElementsP t) (heM : s.SameElementsM t)
    (hp : t.params = s.params) (hout : t.out.Sound) (hres : t.result = none) : t.Inv := by
  obtain ⟨hP, hM, -, -⟩ := inv_iff.1 hs
  exact inv_iff.2 ⟨hP.congr heP hp, hM.congr heM hp, hout, hres⟩

/-! ### The steps without a symbol -/

/-- Outputs with nothing of lane M are sound. -/
theorem sound_of_none {o : Outputs} (hz : o.zwave = none) (hf : o.fail = none) : o.Sound :=
  ⟨.inl hz, fun _ h => absurd (hz.symm.trans h) nofun, fun _ h => absurd (hf.symm.trans h) nofun⟩

/-- The reset state has the invariants when the limit is in its range (R36, R306). -/
theorem resetWith_inv {p : Params} (h : 1 ≤ p.sfdAttemptLimit) : (State.resetWith p).Inv where
  acc := Nat.zero_le _
  buf := Nat.zero_le _
  searching _ := rfl
  delimiter := nofun
  transition := Nat.zero_le _
  edge := .inr ⟨rfl, rfl, rfl⟩
  origin := Nat.le_refl _
  limit := h
  full := nofun
  out := sound_of_none rfl rfl
  result := rfl

theorem resetElements_inv {s : State} (hs : s.Inv) : (resetElements s).Inv :=
  (resetWith_inv hs.limit).of_sameElements ⟨rfl, rfl, rfl, rfl⟩ ⟨rfl, rfl, rfl⟩ rfl (sound_of_none rfl rfl) rfl

theorem takeWord_inv {s : State} (hs : s.Inv) : (takeWord s).Inv :=
  hs.of_sameElements ⟨rfl, rfl, rfl, rfl⟩ ⟨rfl, rfl, rfl⟩ rfl (sound_of_none rfl rfl) rfl

theorem setHalted_inv {s : State} (hs : s.Inv) : (setHalted s).Inv :=
  hs.of_sameElements ⟨rfl, rfl, rfl, rfl⟩ ⟨rfl, rfl, rfl⟩ rfl hs.out hs.result

/-! ### Lane P's symbol -/

/-- After an edge the accumulator still has at most 12 bits, but for a falling edge that makes it 13. -/
theorem accAfterEdge_length (level : Bit) (elapsed : Nat) {acc : List Bit} (h : acc.length ≤ 12) :
    (accAfterEdge level elapsed acc).length ≤ 12 ∨ level = false ∧ (accAfterEdge level elapsed acc).length = 13 := by
  cases level with
  | true => left; unfold accAfterEdge; split <;> simp [h]
  | false =>
    have hle : (accAfterEdge false elapsed acc).length ≤ 13 := by
      unfold accAfterEdge
      split
      · simp
      · simpa using Nat.lt_succ_of_le h
    exact (Nat.lt_or_eq_of_le hle).imp Nat.le_of_lt_succ fun hfull => ⟨rfl, hfull⟩

/-- A level keeps lane P's invariants: the index advances past the transition it may record, and an accumulator that
reaches 13 bits is handed over at once. -/
theorem acceptLevel_lanePInv (level : Bit) {s : State} (hs : s.LanePInv) : (acceptLevel level s).LanePInv := by
  by_cases h : level = s.pwLastLevel
  · rw [acceptLevel_hold h]
    exact ⟨hs.acc, Nat.le_succ_of_le hs.transition,
      hs.edge.imp Nat.lt_succ_of_lt fun e => ⟨e.level, e.index, e.acc⟩, Nat.le_succ_of_le hs.origin⟩
  · rw [acceptLevel_edge h rfl rfl]
    refine ⟨?_, Nat.le_succ _, .inl (Nat.lt_succ_self _), Nat.le_succ_of_le hs.origin⟩
    dsimp only
    split
    next => exact Nat.zero_le _
    next hfull => exact (accAfterEdge_length level _ hs.acc).resolve_right hfull

theorem pwSym_inv {b : Bit} {s t : State} (hs : s.Inv) (h : exec (.pwSym b) s = .next t) : t.Inv := by
  obtain ⟨hP, hM, hout, hres⟩ := inv_iff.1 hs
  have hframe := pwSym_sameButLaneP h
  refine inv_iff.2 ⟨?_, hM.congr hframe.toSameElementsM hframe.params, hout.congr hframe.zwave hframe.fail,
    hframe.result.trans hres⟩
  rcases pwSym_cases h with rfl | rfl
  · exact hP
  · exact acceptLevel_lanePInv b hP

/-! ### Lane M's symbol -/

/-- The packet of a full window has at most 832 bits (R193). -/
theorem packetOf_window_length_le {w : List Bit} (hw : w.length = 1680) :
    (packetOf (manchPairs w) (terminator (manchPairs w))).length ≤ 832 := by
  have hterm := terminator_le (manchPairs w)
  rw [manchPairs_length, hw] at hterm
  rw [packetOf_length le_rfl]
  omega

/-- A packet of at most 832 bits has at most 93 payload bytes (R39). -/
theorem buildFrame_payload_length_le {pkt : List Bit} (h : pkt.length ≤ 832) :
    (buildFrame pkt).payload.length ≤ 93 := by
  change ((packBytes pkt).drop 11).length ≤ 93
  rw [List.length_drop, packBytes_length]
  omega

/-- A capture on a full window hands over a sound frame or a sound failure notice (R104, R192). -/
theorem captureWindow_out_sound {w : List Bit} {s : State} (hw : w.length = 1680) (hz : s.out.zwave = none)
    (hf : s.out.fail = none) : (captureWindow w s).out.Sound := by
  rw [captureWindow_eq rfl]
  dsimp only
  split
  next =>
    refine ⟨.inr hf, ?_, fun n hn => absurd (hf.symm.trans hn) nofun⟩
    rintro _ ⟨⟩
    exact buildFrame_payload_length_le (packetOf_window_length_le hw)
  next hshort =>
    refine ⟨.inl hz, fun f hn => absurd (hz.symm.trans hn) nofun, ?_⟩
    rintro _ ⟨⟩
    exact Nat.le_of_not_lt hshort

/-- Of a compare's outcomes only a capture changes the outputs. -/
theorem syncCompare_out {s t : State} (hl : s.buf.length = 1680) (h : syncCompare s = .next t) :
    t.out = s.out ∨ t.out = (captureWindow s.buf s).out := by
  obtain ⟨t', ht', hcases⟩ := syncCompare_cases hl
  cases ht'.symm.trans h
  rcases hcases with ⟨-, -, rfl⟩ | ⟨-, -, rfl⟩ | ⟨-, -, rfl⟩ | ⟨-, -, -, rfl⟩ | ⟨-, -, -, rfl⟩
  case inr.inr.inl => exact .inr rfl
  all_goals exact .inl rfl

/-- A compare on a full buffer establishes lane M's invariants: a preamble match alone leaves the buffer full, a miss
evicts the head, and a capture removes the delimiter's symbols at least. -/
theorem syncCompare_laneMInv {s t : State} (hl : s.buf.length = 1680)
    (hsearch : s.syncState = .searchingPreamble → s.sfdAttempts = 0) (hlimit : 1 ≤ s.params.sfdAttemptLimit)
    (h : syncCompare s = .next t) : t.LaneMInv := by
  have hdrop : (s.buf.drop 1).length = 1679 := by rw [List.length_drop, hl]
  obtain ⟨t', ht', hcases⟩ := syncCompare_cases hl
  cases ht'.symm.trans h
  rcases hcases with ⟨-, -, rfl⟩ | ⟨hs, -, rfl⟩ | ⟨-, hsfd, rfl⟩ | ⟨hs, -, hmore, rfl⟩ | ⟨-, -, -, rfl⟩
  · -- preamble match
    exact ⟨hl.le, nofun, fun _ => ⟨hlimit, by dsimp only; omega⟩, hlimit, fun _ => ⟨rfl, rfl⟩⟩
  · -- preamble miss
    exact ⟨by dsimp only; omega, hsearch, fun hd => absurd (hs.symm.trans hd) nofun, hlimit,
      fun hfull => absurd hfull (by dsimp only; omega)⟩
  · -- capture
    have hterm := terminator_of_delimiter hsfd
    have hparams := (captureWindow_sameButLaneM s.buf s).params
    have hbuf : (captureWindow s.buf s).buf.length < 1680 := by
      rw [captureWindow_eq rfl, List.length_drop]; omega
    exact ⟨hbuf.le, fun _ => rfl, nofun, hparams ▸ hlimit, fun hfull => absurd hfull hbuf.ne⟩
  · -- delimiter miss, the search goes on
    exact ⟨by dsimp only; omega, fun hp => absurd (hs.symm.trans hp) nofun, fun _ => ⟨hmore, hdrop.ge⟩, hlimit,
      fun hfull => absurd hfull (by dsimp only; omega)⟩
  · -- delimiter miss at the limit
    exact ⟨by dsimp only; omega, fun _ => rfl, nofun, hlimit, fun hfull => absurd hfull (by dsimp only; omega)⟩

/-- A chip keeps lane M's invariants. Where it leaves the buffer short of full, the search is for the preamble. -/
theorem mzSym_laneMInv {b : Bit} {s t : State} (hs : s.LaneMInv) (h : exec (.mzSym b) s = .next t) : t.LaneMInv := by
  have hlen := pushSymbol_length b s hs.buf
  rw [Config.cap_eq] at hlen
  rcases mzSym_cases h with rfl | ⟨hl, rfl⟩ | ⟨hl, hc⟩
  · exact hs
  · have hdelim : s.syncState ≠ .searchingDelimiter := fun hd => by
      obtain ⟨-, hfill⟩ := hs.delimiter hd
      omega
    refine ⟨by omega, ?_, ?_, ?_, fun hfull => absurd hfull hl⟩ <;> rw [pushSymbol_eq]
    · exact hs.searching
    · exact fun hd => absurd hd hdelim
    · exact hs.limit
  · exact syncCompare_laneMInv hl (by simpa using hs.searching) (by simpa using hs.limit) hc

/-- A chip that meets no output of lane M leaves sound outputs. -/
theorem mzSym_out_sound {b : Bit} {s t : State} (hz : s.out.zwave = none) (hf : s.out.fail = none)
    (h : exec (.mzSym b) s = .next t) : t.out.Sound := by
  have hpush := pushSymbol_out b s
  rcases mzSym_cases h with rfl | ⟨-, rfl⟩ | ⟨hl, hc⟩
  · exact sound_of_none hz hf
  · rw [hpush]; exact sound_of_none hz hf
  · rcases syncCompare_out hl hc with hout | hout <;> rw [hout]
    · rw [hpush]; exact sound_of_none hz hf
    · exact captureWindow_out_sound hl (hpush ▸ hz) (hpush ▸ hf)

theorem mzSym_inv {b : Bit} {s t : State} (hs : s.Inv) (hz : s.out.zwave = none) (hf : s.out.fail = none)
    (h : exec (.mzSym b) s = .next t) : t.Inv := by
  obtain ⟨hP, hM, -, hres⟩ := inv_iff.1 hs
  have hframe := mzSym_sameButLaneM h
  exact inv_iff.2 ⟨hP.congr hframe.toSameElementsP hframe.params, mzSym_laneMInv hM h,
    mzSym_out_sound hz hf h, hframe.result.trans hres⟩

/-- The invariants are kept by every step. The record is empty when the word is taken, and lane P's symbol leaves lane
M's part of it empty, so that lane M's symbol meets no output of its own lane. -/
theorem step_inv {s t : State} (hs : s.Inv) (h : step s = .next t) : t.Inv := by
  have hw := takeWord_inv hs
  rcases step_cases h with rfl | rfl | ⟨u, hu, ht⟩
  · exact resetElements_inv hw
  · exact setHalted_inv hw
  · have hmid : u.Inv ∧ u.out.zwave = none ∧ u.out.fail = none := by
      rcases hu with rfl | ⟨b, hb⟩
      · exact ⟨hw, rfl, rfl⟩
      · exact ⟨pwSym_inv hw hb, (pwSym_sameButLaneP hb).zwave, (pwSym_sameButLaneP hb).fail⟩
    obtain ⟨hu', hz, hf⟩ := hmid
    rcases ht with rfl | ⟨c, hc⟩
    · exact hu'
    · exact mzSym_inv hu' hz hf hc

/-! ## The statements -/

/-- Settles O54: what a step can do is said once by `step_cases`, and each case keeps each owner's invariants. -/
theorem stepKeepsTheInvariants : Obligations.StepKeepsTheInvariants := fun _ _ => step_inv

/-- Settles O50, from the frames of the two symbol operations. -/
theorem lanesOwnTheirState : Obligations.LanesOwnTheirState := by
  intro s t b
  constructor
  · intro h
    have hframe := pwSym_sameButLaneP h
    exact ⟨hframe.buf, hframe.syncState, hframe.sfdAttempts, hframe.condsM, hframe.zwave, hframe.fail,
      hframe.halted, hframe.params, hframe.inputs, hframe.result⟩
  · intro h
    have hframe := mzSym_sameButLaneM h
    exact ⟨hframe.level, hframe.transition, hframe.index, hframe.acc, hframe.condsP, hframe.doorbell,
      hframe.halted, hframe.params, hframe.inputs, hframe.result⟩

/-- Settles O56: taking the word drops it, and nothing after it writes the parameters or the words left. -/
theorem parametersNeverChange : Obligations.ParametersNeverChange := by
  intro s t h
  obtain ⟨hparams, hinputs⟩ := step_params_inputs h
  exact ⟨hparams, hinputs.trans List.drop_one.symm⟩

/-- Settles O55. -/
theorem resetHasTheInvariants : Obligations.ResetHasTheInvariants := fun _ => resetWith_inv

/-- Taking the word clears the record, whatever it was (R35, R260). -/
theorem takeWord_of_record (s : State) (o : Outputs) (cp cm : List Condition) (r : Option Value) :
    takeWord { s with out := o, condsP := cp, condsM := cm, result := r } = takeWord s := rfl

/-- Settles O57: the presented word is none of the record, and taking it clears the record. -/
theorem stepForgetsTheRecord : Obligations.StepForgetsTheRecord := by
  intro s o cp cm r
  unfold step
  rw [takeWord_of_record]
  rfl

end Machine

end Sys2Proof

/-! PROOFS. The statements of 20_memory.md: where an operation run by itself stops (R61, log entries 5 and 6), and that
the order of the two lanes within a step cannot be seen (R74). For the second, lane P's part of a state is put into
another state by `State.withLaneP`: lane M's operation is blind to that part, and lane P's operation is a function of
it. -/

namespace Sys2Proof

namespace Machine

/-! ## Stops outside the rules (R61, R193; log entries 5 and 6) -/

/-- PKT.EXTRACT's domain by position: 8 to `e-1` are positions of the sequence, and none holds Invalid (R193). -/
theorem packetRangeValid_iff {t : List Tri} {e : Nat} :
    packetRangeValid t e = true ↔ e ≤ t.length ∧ ∀ k, 8 ≤ k → k < e → t[k]? ≠ some .invalid := by
  have hmem : (∀ x ∈ (t.drop 8).take (e - 8), x ≠ Tri.invalid) ↔
      ∀ k, 8 ≤ k → k < e → t[k]? ≠ some .invalid := by
    constructor
    · intro h k hk hke hinv
      refine h .invalid (List.mem_iff_getElem?.2 ⟨k - 8, ?_⟩) rfl
      rw [List.getElem?_take_of_lt (by omega), List.getElem?_drop, Nat.add_sub_cancel' hk, hinv]
    · rintro h _ hx rfl
      obtain ⟨i, hi⟩ := List.mem_iff_getElem?.1 hx
      rw [List.getElem?_take] at hi
      split at hi
      next => exact h (8 + i) (by omega) (by omega) (List.getElem?_drop ▸ hi)
      next => cases hi
  simp only [packetRangeValid, Config.skipBits_eq, Bool.and_eq_true, decide_eq_true_eq, List.all_eq_true, hmem]

/-- A pattern row stops on a buffer shorter than its pattern. -/
theorem comparePattern_fault {pattern : List Bit} {s : State} (h : s.buf.length < pattern.length) :
    comparePattern pattern s = .fault (.memReadOutside pattern.length s.buf.length) := withWindow_fault h

theorem captureFrame_fault {s : State} (h : s.buf.length < 1680) :
    captureFrame s = .fault (.memReadOutside 1680 s.buf.length) := withWindow_fault h

/-- A delimiter that matches on a buffer that is not full stops in the capture it calls for (R189, R192). -/
theorem searchDelimiter_capture_fault {s : State} (h16 : 16 ≤ s.buf.length) (h : s.buf.length < 1680)
    (hsfd : s.buf.take 16 = Config.sfd) :
    searchDelimiter s = .fault (.memReadOutside 1680 s.buf.length) := by
  rw [searchDelimiter, Config.sfdLen_eq, withWindow_ok h16, if_pos hsfd, captureFrame_fault h, andThen_fault]

/-- Settles O22: a window past the tail stops the reading operations, and each other operation's guard is the domain
that its rule states. -/
theorem stopsOutsideTheRules : Obligations.StopsOutsideTheRules := by
  intro s
  refine ⟨?bufRead, ?pattern32, ?pattern16, ?capture, ?delimiter, ?complete, ?doorbell, ?build, ?checkFrame, ?extract⟩
  case bufRead => exact fun n h => withWindow_fault h
  case pattern32 => exact fun h => ⟨withWindow_fault h, comparePattern_fault h⟩
  case pattern16 => exact fun h => ⟨withWindow_fault h, comparePattern_fault h⟩
  case capture => exact captureFrame_fault
  case delimiter => exact searchDelimiter_capture_fault
  case complete => exact fun h => if_neg h
  case doorbell => exact fun acc h => ⟨if_neg h, if_neg h, if_neg h⟩
  case build => exact fun pkt h => if_neg (Nat.not_lt.2 h)
  case checkFrame => rfl
  case extract =>
    intro t e h
    refine if_neg fun hvalid => ?_
    obtain ⟨hlen, hnone⟩ := packetRangeValid_iff.1 hvalid
    rcases h with hlong | ⟨k, hk, hke, hinv⟩
    · exact absurd hlen (Nat.not_le.2 hlong)
    · exact hnone k hk hke hinv

/-! ## Lane P's part of a state -/

/-- `s` with lane P's part, its elements and its part of the record (R21 to R24, R29), taken from `p`. -/
def State.withLaneP (s p : State) : State :=
  { s with
    pwLastLevel := p.pwLastLevel
    pwLastTransitionIndex := p.pwLastTransitionIndex
    pwIndex := p.pwIndex
    pwAcc := p.pwAcc
    condsP := p.condsP
    out := { s.out with doorbell := p.out.doorbell } }

/-- What differs in lane P alone is the old state with the new one's lane P. -/
theorem State.SameButLaneP.eq_withLaneP {s t : State} (h : s.SameButLaneP t) : t = s.withLaneP t := by
  have hout : t.out = { s.out with doorbell := t.out.doorbell } := by simp only [← h.zwave, ← h.fail]
  simp only [State.withLaneP, ← hout, ← h.buf, ← h.syncState, ← h.sfdAttempts, ← h.halted, ← h.params, ← h.inputs,
    ← h.result, ← h.condsM]

/-- What differs in lane M alone has the old state's lane P already. -/
theorem State.SameButLaneM.withLaneP_eq {s t : State} (h : s.SameButLaneM t) : t.withLaneP s = t := by
  simp only [State.withLaneP, ← h.level, ← h.transition, ← h.index, ← h.acc, ← h.condsP, ← h.doorbell]

/-! ### Lane P's operation is a function of lane P's part -/

/-- States with the same lane P make the same lane P of a level. -/
theorem acceptLevel_of_sameButLaneM (level : Bit) {s t : State} (h : s.SameButLaneM t) :
    acceptLevel level t = t.withLaneP (acceptLevel level s) := by
  rw [(acceptLevel_sameButLaneP level t).eq_withLaneP]
  by_cases hlevel : level = s.pwLastLevel
  · rw [acceptLevel_hold hlevel, acceptLevel_hold (hlevel.trans h.level.symm)]
    simp only [State.withLaneP, h.level, h.transition, h.index, h.acc, h.condsP, h.doorbell]
  · rw [acceptLevel_edge hlevel rfl rfl, acceptLevel_edge (h.level ▸ hlevel) rfl rfl]
    simp only [State.withLaneP, h.transition, h.index, h.acc, h.condsP]
    split
    next => rfl
    next => rw [h.doorbell]

/-- PW.SYM completes from every state. -/
theorem pwSym_completes (b : Bit) (s : State) : ∃ t, exec (.pwSym b) s = .next t := by
  rw [exec_pwSym, unlessHalted]
  split <;> exact ⟨_, rfl⟩

/-- Where two states differ in lane M alone, PW.SYM makes the same lane P of both. -/
theorem pwSym_of_sameButLaneM {b : Bit} {s t u : State} (h : s.SameButLaneM t) (hu : exec (.pwSym b) s = .next u) :
    exec (.pwSym b) t = .next (t.withLaneP u) := by
  rw [exec_pwSym] at hu ⊢
  cases hh : s.halted with
  | true =>
    rw [unlessHalted_true hh] at hu
    cases hu
    rw [unlessHalted_true (h.halted.trans hh), h.withLaneP_eq]
  | false =>
    rw [unlessHalted_false hh] at hu
    cases hu
    rw [unlessHalted_false (h.halted.trans hh), acceptLevel_of_sameButLaneM b h]

/-! ### Lane M's operation is blind to lane P's part -/

/-- An operation that neither reads nor writes lane P's part: with another lane P it does the same, stops included. -/
def BlindToLaneP (op : State → Host.Outcome State Fault Refusal) : Prop :=
  ∀ s p, op (s.withLaneP p) = andThen (op s) (fun t => .next (t.withLaneP p))

/-- The leading window is lane M's. -/
theorem withWindow_blindToLaneP {n : Nat} {k : State → List Bit → Host.Outcome State Fault Refusal}
    (h : ∀ w, BlindToLaneP (fun s => k s w)) : BlindToLaneP (fun s => withWindow n s (k s)) := by
  intro s p
  by_cases hn : n ≤ s.buf.length
  · have hn' : n ≤ (s.withLaneP p).buf.length := hn
    dsimp only
    rw [withWindow_ok hn, withWindow_ok hn']
    exact h _ s p
  · have hn' : (s.withLaneP p).buf.length < n := Nat.not_le.1 hn
    dsimp only
    rw [withWindow_fault (Nat.not_le.1 hn), withWindow_fault hn']
    rfl

theorem pushSymbol_withLaneP (c : Bit) (s p : State) :
    pushSymbol c (s.withLaneP p) = (pushSymbol c s).withLaneP p := by
  rw [pushSymbol_eq, pushSymbol_eq]; rfl

theorem captureWindow_withLaneP (w : List Bit) (s p : State) :
    captureWindow w (s.withLaneP p) = (captureWindow w s).withLaneP p := by
  rw [captureWindow_eq rfl, captureWindow_eq rfl]
  dsimp only [State.withLaneP]
  split <;> rfl

/-- An unmatched delimiter compare in one record update (R189, R191). -/
theorem missDelimiter_eq (s : State) :
    missDelimiter s = { s with
      buf := s.buf.drop 1
      condsM := s.condsM ++ [.patternMiss .delimiter]
      syncState := if s.params.sfdAttemptLimit ≤ s.sfdAttempts + 1 then .searchingPreamble else s.syncState
      sfdAttempts := if s.params.sfdAttemptLimit ≤ s.sfdAttempts + 1 then 0 else s.sfdAttempts + 1 } := by
  by_cases h : s.params.sfdAttemptLimit ≤ s.sfdAttempts + 1
  · rw [if_pos h, if_pos h]; exact if_pos h
  · rw [if_neg h, if_neg h]; exact if_neg h

theorem missDelimiter_withLaneP (s p : State) : missDelimiter (s.withLaneP p) = (missDelimiter s).withLaneP p := by
  rw [missDelimiter_eq, missDelimiter_eq]; rfl

theorem searchPreamble_blindToLaneP : BlindToLaneP searchPreamble := by
  refine withWindow_blindToLaneP fun w s p => ?_
  dsimp only
  split <;> rfl

theorem captureFrame_blindToLaneP : BlindToLaneP captureFrame := by
  refine withWindow_blindToLaneP fun w s p => ?_
  dsimp only
  rw [captureWindow_withLaneP, andThen_next]

theorem searchDelimiter_blindToLaneP : BlindToLaneP searchDelimiter := by
  refine withWindow_blindToLaneP fun w s p => ?_
  dsimp only
  split
  next =>
    rw [captureFrame_blindToLaneP]
    cases captureFrame s <;> rfl
  next => rw [missDelimiter_withLaneP, andThen_next]

theorem syncCompare_blindToLaneP : BlindToLaneP syncCompare := by
  intro s p
  have hsync : (s.withLaneP p).syncState = s.syncState := rfl
  rw [syncCompare, syncCompare, hsync]
  cases s.syncState with
  | searchingPreamble => exact searchPreamble_blindToLaneP s p
  | searchingDelimiter => exact searchDelimiter_blindToLaneP s p

theorem acceptChip_blindToLaneP (c : Bit) : BlindToLaneP (acceptChip c) := by
  intro s p
  have hbuf : ((pushSymbol c s).withLaneP p).buf = (pushSymbol c s).buf := rfl
  rw [acceptChip, acceptChip, pushSymbol_withLaneP, hbuf]
  split
  next => exact syncCompare_blindToLaneP (pushSymbol c s) p
  next => rfl

/-- MZ.SYM neither reads nor writes lane P (R29). -/
theorem mzSym_blindToLaneP (c : Bit) : BlindToLaneP (exec (.mzSym c)) := by
  intro s p
  cases hh : s.halted with
  | true =>
    have hh' : (s.withLaneP p).halted = true := hh
    rw [exec_mzSym, exec_mzSym, unlessHalted_true hh, unlessHalted_true hh', andThen_next]
  | false =>
    have hh' : (s.withLaneP p).halted = false := hh
    rw [exec_mzSym, exec_mzSym, unlessHalted_false hh, unlessHalted_false hh']
    exact acceptChip_blindToLaneP c s p

/-! ## The order of the lanes (R74) -/

/-- Settles O51: lane M's symbol does the same after lane P's as before it, and lane P's symbol makes the same of its own
lane after lane M's as before it. -/
theorem laneOrderIsImmaterial : Obligations.LaneOrderIsImmaterial := by
  intro s p m
  obtain ⟨u, hu⟩ := pwSym_completes p s
  calc andThen (exec (.pwSym p) s) (fun s1 => exec (.mzSym m) s1)
    _ = exec (.mzSym m) u := by rw [hu, andThen_next]
    _ = exec (.mzSym m) (s.withLaneP u) := congrArg _ (pwSym_sameButLaneP hu).eq_withLaneP
    _ = andThen (exec (.mzSym m) s) (fun t => .next (t.withLaneP u)) := mzSym_blindToLaneP m s u
    _ = andThen (exec (.mzSym m) s) (fun s1 => exec (.pwSym p) s1) := by
      cases hm : exec (.mzSym m) s with
      | next t => exact (pwSym_of_sameButLaneM (mzSym_sameButLaneM hm) hu).symm
      | fault f => rfl
      | refused r => rfl

end Machine

end Sys2Proof

/-! PROOFS. The statements of 30_encoding.md: the input word by its bits and by the rows' masks (R90), decode against
encode (R90 to R99), and what the rows that are codes of durations, pairs, patterns and layouts do when they run (R92 to
R101). -/

namespace Sys2Proof

namespace Machine

/-! ## The input word (R90) -/

theorem wordHits_iff {iw mask pattern : BitVec 6} : wordHits iw mask pattern = true ↔ iw &&& mask = pattern := beq_iff_eq

/-! Each row's match under its mask, by the bits of the word. -/

theorem hitsRst_eq_bits (iw : BitVec 6) : hitsRst iw = iw.getLsbD 5 := by
  revert iw; decide

theorem hitsCancel_eq_bits (iw : BitVec 6) : hitsCancel iw = (!iw.getLsbD 5 && iw.getLsbD 4) := by
  revert iw; decide

theorem hitsMz_eq_bits (iw : BitVec 6) : hitsMz iw = (!iw.getLsbD 5 && !iw.getLsbD 4 && iw.getLsbD 3) := by
  revert iw; decide

theorem hitsPw_eq_bits (iw : BitVec 6) : hitsPw iw = (!iw.getLsbD 5 && !iw.getLsbD 4 && iw.getLsbD 1) := by
  revert iw; decide

theorem idle_mask_iff_bits (iw : BitVec 6) : iw &&& 0b111010#6 = 0b000000#6 ↔
    iw.getLsbD 5 = false ∧ iw.getLsbD 4 = false ∧ iw.getLsbD 3 = false ∧ iw.getLsbD 1 = false := by
  revert iw; decide

/-- The operations of a word, by its bits in R90's priority order. -/
theorem decodeInputWord_eq_bits (iw : BitVec 6) : decodeInputWord iw =
    if iw.getLsbD 5 then [.rst]
    else if iw.getLsbD 4 then [.cancel]
    else if !iw.getLsbD 3 && !iw.getLsbD 1 then [.idle]
    else (if iw.getLsbD 1 then [.pwSym (iw.getLsbD 0)] else []) ++
      (if iw.getLsbD 3 then [.mzSym (iw.getLsbD 2)] else []) := by
  simp only [decodeInputWord, decodeSlots, hitsRst_eq_bits, hitsCancel_eq_bits, hitsMz_eq_bits, hitsPw_eq_bits]
  cases iw.getLsbD 5 with
  | true => rfl
  | false =>
    cases iw.getLsbD 4 with
    | true => rfl
    | false => cases iw.getLsbD 3 <;> cases iw.getLsbD 1 <;> rfl

theorem rst_mem_decodeInputWord {iw : BitVec 6} : Instr.rst ∈ decodeInputWord iw ↔ hitsRst iw = true := by
  rw [decodeInputWord_eq_bits, hitsRst_eq_bits]
  split_ifs <;> simp_all

theorem cancel_mem_decodeInputWord {iw : BitVec 6} : Instr.cancel ∈ decodeInputWord iw ↔ hitsCancel iw = true := by
  rw [decodeInputWord_eq_bits, hitsCancel_eq_bits]
  split_ifs <;> simp_all

theorem mzSym_mem_decodeInputWord {iw : BitVec 6} {b : Bit} :
    Instr.mzSym b ∈ decodeInputWord iw ↔ hitsMz iw = true ∧ b = iw.getLsbD 2 := by
  rw [decodeInputWord_eq_bits, hitsMz_eq_bits]
  split_ifs <;> simp_all

theorem pwSym_mem_decodeInputWord {iw : BitVec 6} {b : Bit} :
    Instr.pwSym b ∈ decodeInputWord iw ↔ hitsPw iw = true ∧ b = iw.getLsbD 0 := by
  rw [decodeInputWord_eq_bits, hitsPw_eq_bits]
  split_ifs <;> simp_all

theorem idle_mem_decodeInputWord {iw : BitVec 6} :
    Instr.idle ∈ decodeInputWord iw ↔ iw &&& 0b111010#6 = 0b000000#6 := by
  rw [decodeInputWord_eq_bits, idle_mask_iff_bits]
  split_ifs <;> simp_all

/-- Settles O2: the decoding by bits, and each row's membership as its match under its mask. -/
theorem inputWordSelectsOperations : Obligations.InputWordSelectsOperations := by
  intro iw
  refine ⟨?rst, ?cancel, ?slots, rst_mem_decodeInputWord.trans wordHits_iff,
    cancel_mem_decodeInputWord.trans wordHits_iff, ?mzMask, ?pwMask, idle_mem_decodeInputWord⟩
  case rst => intro h5; rw [decodeInputWord_eq_bits, h5]; rfl
  case cancel => intro h5 h4; rw [decodeInputWord_eq_bits, h5, h4]; rfl
  case slots =>
    intro h5 h4
    refine ⟨?_, ?_, ?_, ?_⟩ <;> intro h3 h1 <;> rw [decodeInputWord_eq_bits, h5, h4, h3, h1] <;> rfl
  case mzMask => simp only [mzSym_mem_decodeInputWord, exists_and_left, exists_eq, and_true, hitsMz, wordHits_iff]
  case pwMask => simp only [pwSym_mem_decodeInputWord, exists_and_left, exists_eq, and_true, hitsPw, wordHits_iff]

/-! ## Decode against encode (R90 to R99, R264) -/

/-- No word that R106 writes for lane M is one of lane P's. -/
theorem laneSymbol_p_laneWord_m (b : Bit) : laneSymbol .p (laneWord .m b) = none := by
  cases b <;> decide

/-- A batch is read back from its words: lane P's reading is tried first, and fails on lane M's first word. -/
theorem decodeBatch_laneWords (lane : Lane) {ss : List Bit} (h : ss.isEmpty = false) :
    decodeBatch (ss.map (laneWord lane)) = .ok (.batch lane ss) := by
  cases ss with
  | nil => cases h
  | cons b rest =>
    have hsymbols := laneSymbols_map lane (b :: rest)
    cases lane with
    | p => simp only [decodeBatch, List.isEmpty_map, h, hsymbols, Bool.false_eq_true, if_false]
    | m =>
      have hp : laneSymbols .p ((b :: rest).map (laneWord .m)) = none := by
        simp only [List.map_cons, laneSymbols, laneSymbol_p_laneWord_m]
      simp only [decodeBatch, List.isEmpty_map, h, hp, hsymbols, Bool.false_eq_true, if_false]

/-- The code of a well-formed operation other than the row MANCH decodes to that operation. -/
theorem decode_encode {i : Instr} {c : Code} (hwf : i.wf = true) (hc : encode i = some c)
    (hm : ∀ a b, i ≠ .manch a b) : decode c = .ok [i] := by
  cases i with
  | rst | cancel | idle | manchInv0 | manchZero | manchOne | manchInv1 | preamble | sfd | triState => cases hc; rfl
  | mzSym s => cases hc; exact congrArg _ (decodeInputWord_laneWord .m s)
  | pwSym s => cases hc; exact congrArg _ (decodeInputWord_laneWord .p s)
  | batch lane ss =>
    simp only [encode] at hc
    split at hc
    next => cases hc
    next h =>
      cases hc
      rw [decode, decodeBatch_laneWords lane (Bool.eq_false_iff.2 h)]
      rfl
  | manch a b => exact absurd rfl (hm a b)
  | doorbell13 acc => cases hc; exact if_pos (beq_iff_eq.1 hwf)
  | zwPacket pkt => cases hc; exact if_pos (of_decide_eq_true hwf)
  | _ => cases hc

/-- The case that MANCH's code decodes to does what MANCH does (R92, R150). -/
theorem exec_decodeChipPair (a b : Bit) (s : State) : exec (decodeChipPair (chipPairCode a b)) s = exec (.manch a b) s := by
  cases a <;> cases b <;> rfl

/-- Settles O4: MANCH decodes to its case, and every other code to its own operation. -/
theorem decodeOfEncodeIsTheInstruction : Obligations.DecodeOfEncodeIsTheInstruction := by
  intro i c hwf hc
  by_cases hm : ∃ a b, i = .manch a b
  · obtain ⟨a, b, rfl⟩ := hm
    cases hc
    exact .inr ⟨a, b, decodeChipPair (chipPairCode a b), rfl, rfl, exec_decodeChipPair a b⟩
  · have hne : ∀ a b, i ≠ .manch a b := fun a b h => hm ⟨a, b, h⟩
    exact .inl ⟨hne, decode_encode hwf hc hne⟩

/-- Settles O3: the format is told by the number of bits, and each word written is its row's. -/
theorem writtenWordsDecode : Obligations.WrittenWordsDecode := by
  unfold Obligations.WrittenWordsDecode; decide

/-! ## Chip pairs and tri-state codes (R92, R93, R150) -/

/-- Two equal chips are no bit (R150). -/
theorem manchPair_self (a : Bit) : manchPair a a = .invalid := by cases a <;> rfl

/-- Settles O15: each case is MANCH on its pair. -/
theorem chipPairTable : Obligations.ChipPairTable := by
  intro s
  refine ⟨rfl, rfl, rfl, rfl, rfl, rfl, fun a => ?_⟩
  rw [← manchPair_self a]
  rfl

/-- A value is read back from its code, which is never 11 (R93). -/
theorem triOfCode_triCode (t : Tri) : triOfCode (triCode t) = t := by cases t <;> rfl

theorem triCode_ne_three (t : Tri) : triCode t ≠ 0b11#2 := by cases t <;> decide

/-- Settles O18: a consumer's reading of each code, and the round trip of each value. -/
theorem triStateCodes : Obligations.TriStateCodes :=
  ⟨fun t => ⟨triOfCode_triCode t, triCode_ne_three t⟩, rfl, rfl, rfl, fun _ => ⟨rfl, rfl, rfl, rfl⟩⟩

/-! ## Patterns (R94 to R96) -/

/-- A pattern row reads a buffer long enough, and compares its leading window (R96). -/
theorem comparePattern_ok {pattern : List Bit} {s : State} (h : pattern.length ≤ s.buf.length) :
    comparePattern pattern s = .next (s.returning (.bool (decide (s.buf.take pattern.length = pattern)))) :=
  withWindow_ok h

/-- The preamble's symbols by position (R94). -/
theorem preamble_getElem? : ∀ i, i < 32 → Config.preamble[i]? = some (decide (i % 4 < 2)) := by decide

/-- A leading window is a pattern exactly when it holds the pattern's symbol at each of its addresses. -/
theorem take_eq_iff_memAt {mem : Memory} {p : List Bit} :
    mem.take p.length = p ↔ ∀ i, i < p.length → memAt mem i = p[i]? := by
  constructor
  · intro h i hi
    rw [memAt, ← List.getElem?_take_of_lt hi, h]
  · intro h
    refine List.ext_getElem? fun i => ?_
    by_cases hi : i < p.length
    · rw [List.getElem?_take_of_lt hi]; exact h i hi
    · rw [List.getElem?_take_eq_none (Nat.le_of_not_lt hi), List.getElem?_eq_none (Nat.le_of_not_lt hi)]

/-- Settles O23: the patterns are closed data, and each row's result is the compare of its leading window. -/
theorem patternRowsCompareTheWindow : Obligations.PatternRowsCompareTheWindow := by
  refine ⟨Config.preamble_length, preamble_getElem?, by decide, Config.sfd_length, by decide, fun s => ⟨?pre, ?sfd⟩⟩
  case pre =>
    intro h
    refine ⟨_, comparePattern_ok h, ?_⟩
    rw [decide_eq_true_iff, take_eq_iff_memAt]
    exact forall₂_congr fun i hi => by rw [preamble_getElem? i hi]
  case sfd => exact fun h => ⟨_, comparePattern_ok h, decide_eq_true_iff⟩

/-! ## Pulse-width classes (R97) -/

/-- Settles O5: the table's rows by the boundaries 4/5 and 50/51. -/
theorem pulseClassTable : Obligations.PulseClassTable := by
  intro elapsed
  refine ⟨?short, ?long, ?longResync, ?rise, ?riseResync, rfl⟩
  case short => exact fun h => if_pos h
  case long => exact fun h4 h50 => (if_neg (Nat.not_le.2 h4)).trans (if_pos h50)
  case longResync =>
    intro h
    have hlong : ¬ elapsed ≤ 4 := by omega
    exact (if_neg hlong).trans (if_neg (Nat.not_le.2 h))
  case rise => exact fun h => if_pos h
  case riseResync => exact fun h => if_neg (Nat.not_le.2 h)

/-- A falling edge without discard appends its bit, and completes the frame when the bit is the 13th (R97, R125). -/
theorem classEdge_append (b : Bit) (s : State) :
    classEdge false false (some b) s =
      completeIfFull { s with
        pwIndex := s.pwIndex + 1, pwLastTransitionIndex := s.pwIndex, pwLastLevel := false, pwAcc := s.pwAcc ++ [b] } :=
  rfl

theorem completeIfFull_of_ne {s : State} (h : s.pwAcc.length ≠ 13) : completeIfFull s = s := if_neg h

theorem completeIfFull_of_eq {s : State} (h : s.pwAcc.length = 13) : completeIfFull s = completeAcc s := if_pos h

/-- An append that does not make the 13th bit leaves the frame open (R124). -/
theorem classEdge_append_open (b : Bit) {s : State} (h : s.pwAcc.length ≠ 12) :
    classEdge false false (some b) s = { s with
      pwIndex := s.pwIndex + 1, pwLastTransitionIndex := s.pwIndex, pwLastLevel := false, pwAcc := s.pwAcc ++ [b] } := by
  rw [classEdge_append, completeIfFull_of_ne]
  simpa using h

/-- An append that makes the 13th bit emits the frame and clears the accumulator (R125). -/
theorem classEdge_append_complete (b : Bit) {s : State} (h : s.pwAcc.length = 12) :
    classEdge false false (some b) s = { s with
      pwIndex := s.pwIndex + 1, pwLastTransitionIndex := s.pwIndex, pwLastLevel := false, pwAcc := [],
      out := { s.out with doorbell := some ⟨buttonOf (s.pwAcc ++ [b]), toneOf (s.pwAcc ++ [b])⟩ } } := by
  rw [classEdge_append, completeIfFull_of_eq (by simp [h])]
  rfl

/-- Settles O7: the classes without an append to a kept accumulator are their table rows; PW.SHORT and PW.LONG are one
append, of bit 1 and of bit 0. -/
theorem pulseClassEffects : Obligations.PulseClassEffects := by
  intro s
  refine ⟨rfl, rfl, rfl, rfl, ?openFrame, ?complete⟩
  case openFrame =>
    exact fun h => ⟨congrArg _ (classEdge_append_open true h), congrArg _ (classEdge_append_open false h)⟩
  case complete =>
    exact fun h => ⟨congrArg _ (classEdge_append_complete true h), congrArg _ (classEdge_append_complete false h)⟩

/-! ## Doorbell fields (R98, R100) -/

/-- The number its low `n` bits make, as the sum of their weights. -/
theorem mod_two_pow_eq_sum_testBit (x n : Nat) :
    x % 2 ^ n = ((List.range n).map (fun k => (x.testBit k).toNat * 2 ^ k)).sum := by
  induction n with
  | zero => simp [Nat.mod_one]
  | succ n ih =>
    rw [Nat.mod_pow_succ, ih, List.range_succ, List.map_append, List.sum_append, ← Nat.toNat_testBit, Nat.mul_comm]
    simp

/-- A register whose bit `k` is `q k` is the sum of `q k * 2^k` (R100). -/
theorem toNat_eq_sum_of_bits {n : Nat} {v : BitVec n} {q : Nat → Bit} (h : ∀ k, k < n → v.getLsbD k = q k) :
    v.toNat = ((List.range n).map (fun k => (q k).toNat * 2 ^ k)).sum := by
  rw [← Nat.mod_eq_of_lt v.isLt, mod_two_pow_eq_sum_testBit]
  congr 1
  refine List.map_congr_left fun k hk => ?_
  rw [← h k (List.mem_range.1 hk), BitVec.getLsbD]

/-- Bit `k` of `button_id` stands at position `1+k` (R98, R126). -/
theorem buttonOf_getLsbD {acc : List Bit} (h : acc.length = 13) {k : Nat} (hk : k < 8) :
    (buttonOf acc).getLsbD k = acc.getD (1 + k) false := by
  match acc, h with
  | [_, b0, b1, b2, b3, b4, b5, b6, b7, t0, t1, t2, t3], _ =>
    rw [Nat.add_comm, List.getD_cons_succ]
    exact (buttonOf_bits b0 b1 b2 b3 b4 b5 b6 b7 k hk).trans
      (List.getD_append [b0, b1, b2, b3, b4, b5, b6, b7] [t0, t1, t2, t3] false k hk).symm

/-- Bit `k` of `tone` stands at position `9+k` (R98, R127). -/
theorem toneOf_getLsbD {acc : List Bit} (h : acc.length = 13) {k : Nat} (hk : k < 4) :
    (toneOf acc).getLsbD k = acc.getD (9 + k) false := by
  match acc, h with
  | [_, _, _, _, _, _, _, _, _, t0, t1, t2, t3], _ =>
    rw [Nat.add_comm]
    exact toneOf_bits t0 t1 t2 t3 k hk

/-- Settles O12: each field's bit `k` is an accumulator's bit, and the closed form is the sum of the bits' weights. -/
theorem doorbellFieldsClosedForm : Obligations.DoorbellFieldsClosedForm := by
  intro s acc h
  exact ⟨buttonOf acc, toneOf acc, toNat_eq_sum_of_bits fun _ => buttonOf_getLsbD h,
    toNat_eq_sum_of_bits fun _ => toneOf_getLsbD h, if_pos h, if_pos h, if_pos h⟩

/-! ## The packet layout (R99, R101) -/

/-- The value of a range of bits is made of the values of its two parts, the first one more significant (R101). -/
theorem val_slice_split {pkt : List Bit} {lo mid hi : Nat} (hlo : lo ≤ mid) (hmid : mid ≤ hi) (hhi : hi < pkt.length) :
    val (slice pkt lo hi) = val (slice pkt lo mid) * 2 ^ (hi - mid) + val (slice pkt (mid + 1) hi) := by
  have hlen : (slice pkt (mid + 1) hi).length = hi - mid := by rw [slice_length pkt hhi]; omega
  have hsplit : slice pkt lo hi = slice pkt lo mid ++ slice pkt (mid + 1) hi := by
    simp only [slice]
    rw [show hi + 1 - lo = (mid + 1 - lo) + (hi + 1 - (mid + 1)) by omega, List.take_add, List.drop_drop,
      show lo + (mid + 1 - lo) = mid + 1 by omega]
  rw [hsplit, val_append, hlen]

/-- A field as wide as its range of offsets holds the range's value (R101). -/
theorem field_toNat {width : Nat} {pkt : List Bit} {lo hi : Nat} (hhi : hi < pkt.length) (hw : hi + 1 - lo = width) :
    (field width pkt lo hi).toNat = val (slice pkt lo hi) := by
  rw [field, BitVec.toNat_ofNat]
  refine Nat.mod_eq_of_lt ?_
  rw [← hw, ← slice_length pkt hhi]
  exact val_lt _

/-- Byte `j` of a packet is the field at offsets `8j .. 8j+7` (R101, R215). -/
theorem byteAt_packBytes {pkt : List Bit} {j : Nat} (h : 8 * j + 8 ≤ pkt.length) :
    byteAt (packBytes pkt) j = field 8 pkt (8 * j) (8 * j + 7) := by
  rw [byteAt, List.getD_eq_getElem?_getD, packBytes_getElem? pkt j h]
  rfl

theorem byteAt_packBytes_toNat {pkt : List Bit} {j : Nat} (h : 8 * j + 8 ≤ pkt.length) :
    (byteAt (packBytes pkt) j).toNat = val (slice pkt (8 * j) (8 * j + 7)) := by
  rw [byteAt_packBytes h, field_toNat (by omega) (by omega)]

/-- A field with one more byte at its end (R101, R217). -/
theorem val_slice_succ_byte {pkt : List Bit} {lo j : Nat} (hlo : lo ≤ 8 * j + 7) (h : 8 * (j + 1) + 8 ≤ pkt.length) :
    val (slice pkt lo (8 * (j + 1) + 7)) =
      val (slice pkt lo (8 * j + 7)) * 256 + (byteAt (packBytes pkt) (j + 1)).toNat := by
  rw [val_slice_split hlo (by omega) (by omega), byteAt_packBytes_toNat h,
    show 8 * (j + 1) + 7 - (8 * j + 7) = 8 by omega]
  rfl

/-- The frame ZW.BUILD makes by bytes has the fields of the layout by bits (R99, R217). -/
theorem buildFrame_layout {pkt : List Bit} (h : 88 < pkt.length) : (buildFrame pkt).layout = layoutOf pkt := by
  have hbyte : ∀ j, j < 11 → byteAt (packBytes pkt) j = field 8 pkt (8 * j) (8 * j + 7) :=
    fun j hj => byteAt_packBytes (by omega)
  have hhome : (byteAt (packBytes pkt) 0).toNat * 2 ^ 24 + (byteAt (packBytes pkt) 1).toNat * 2 ^ 16 +
      (byteAt (packBytes pkt) 2).toNat * 2 ^ 8 + (byteAt (packBytes pkt) 3).toNat = val (slice pkt 0 31) := by
    have h0 := byteAt_packBytes_toNat (pkt := pkt) (j := 0) (by omega)
    have h1 := val_slice_succ_byte (pkt := pkt) (lo := 0) (j := 0) (by omega) (by omega)
    have h2 := val_slice_succ_byte (pkt := pkt) (lo := 0) (j := 1) (by omega) (by omega)
    have h3 := val_slice_succ_byte (pkt := pkt) (lo := 0) (j := 2) (by omega) (by omega)
    simp only [Nat.reduceMul, Nat.reduceAdd] at h0 h1 h2 h3
    rw [h3, h2, h1, ← h0]
    ring
  have hcontrol : (byteAt (packBytes pkt) 5).toNat * 256 + (byteAt (packBytes pkt) 6).toNat =
      val (slice pkt 40 55) := by
    have h5 := byteAt_packBytes_toNat (pkt := pkt) (j := 5) (by omega)
    have h6 := val_slice_succ_byte (pkt := pkt) (lo := 40) (j := 5) (by omega) (by omega)
    simp only [Nat.reduceMul, Nat.reduceAdd] at h5 h6
    rw [h6, h5]
  simp only [ZWaveFrame.layout, buildFrame, layoutOf, ZWaveLayout.mk.injEq]
  exact ⟨congrArg _ hhome, hbyte 4 (by decide), congrArg _ hcontrol, hbyte 7 (by decide), hbyte 8 (by decide),
    hbyte 9 (by decide), hbyte 10 (by decide), (packBytes_drop pkt 11).symm⟩

/-- Settles O38: each field is its range of offsets, and ZW.BUILD's fields by bytes are the same. -/
theorem layoutByBitsIsLayoutByBytes : Obligations.LayoutByBitsIsLayoutByBytes := by
  intro s pkt
  constructor
  · exact fun h => if_neg (Nat.not_lt.2 h)
  · intro h
    exact ⟨layoutOf pkt, if_pos h, field_toNat (by omega) rfl, field_toNat (by omega) rfl, field_toNat (by omega) rfl,
      field_toNat (by omega) rfl, field_toNat (by omega) rfl, field_toNat (by omega) rfl, field_toNat (by omega) rfl,
      buildFrame pkt, if_pos h, buildFrame_layout h⟩

end Machine

end Sys2Proof

/-! PROOFS. The statements of 40_timing_bit_extractor.md: PW.SYM by its class (R97, R120), the falling edge and its
completion (R123 to R125, R129), the doorbell round trip (R128), and the internal operations run by themselves (R121 to
R125). -/

namespace Sys2Proof

namespace Machine

/-! ## PW.SYM by its class (R97, R120) -/

/-- Settles O6: the guard of R266, and the class of the symbol at the state. -/
theorem levelSymbolActsAsItsClass : Obligations.LevelSymbolActsAsItsClass := by
  intro s b
  refine ⟨?halted, ?running⟩
  case halted => exact fun h => (exec_pwSym b s).trans (unlessHalted_true h _)
  case running =>
    intro h
    calc exec (.pwSym b) s = .next (acceptLevel b s) := (exec_pwSym b s).trans (unlessHalted_false h _)
      _ = exec (classOf b s) s := (exec_classOf b s).symm

/-- A symbol equal to the last level is PW.HOLD (R97). -/
theorem pwSym_hold {s : State} {b : Bit} (hh : s.halted = false) (hb : b = s.pwLastLevel) :
    exec (.pwSym b) s = exec .pwHold s := by
  rw [(levelSymbolActsAsItsClass s b).2 hh, if_pos hb]
  rfl

/-- A falling edge is of the class its elapsed samples give (R97). -/
theorem pwSym_fall {s : State} (hh : s.halted = false) (hl : s.pwLastLevel = true) :
    exec (.pwSym false) s = exec (decodePwClass (some false) (s.pwIndex - s.pwLastTransitionIndex)) s := by
  rw [(levelSymbolActsAsItsClass s false).2 hh, if_neg (by simp [hl])]

/-- Settles O8: an unchanged level is PW.HOLD, and PW.HOLD advances the index. -/
theorem unchangedLevelAdvancesIndexOnly : Obligations.UnchangedLevelAdvancesIndexOnly := by
  intro s b hh hb
  obtain ⟨hold, -⟩ := pulseClassEffects s
  exact (pwSym_hold hh hb).trans hold

/-- Settles O9: such an edge is PW.LONGRESYNC, whose row discards before it appends. -/
theorem longPulseLeavesOneZeroBit : Obligations.LongPulseLeavesOneZeroBit := by
  intro s hh hl h50
  obtain ⟨-, -, hclass, -⟩ := pulseClassTable (s.pwIndex - s.pwLastTransitionIndex)
  obtain ⟨-, -, -, longResync, -⟩ := pulseClassEffects s
  rw [pwSym_fall hh hl, hclass h50]
  exact longResync

/-! ## The falling edge that keeps the accumulator (R123 to R125) -/

/-- A falling edge within 50 samples appends the bit its pulse stands for, and then tests completion (R123, R124). -/
theorem pwSym_fall_append {s : State} (hh : s.halted = false) (hl : s.pwLastLevel = true)
    (h50 : s.pwIndex - s.pwLastTransitionIndex ≤ 50) :
    exec (.pwSym false) s = .next (completeIfFull { s with
      pwIndex := s.pwIndex + 1, pwLastTransitionIndex := s.pwIndex, pwLastLevel := false,
      pwAcc := s.pwAcc ++ [decide (s.pwIndex - s.pwLastTransitionIndex ≤ 4)] }) := by
  obtain ⟨hshort, hlong, -⟩ := pulseClassTable (s.pwIndex - s.pwLastTransitionIndex)
  rw [pwSym_fall hh hl, ← classEdge_append]
  by_cases h4 : s.pwIndex - s.pwLastTransitionIndex ≤ 4
  · rw [hshort h4, decide_eq_true h4]; rfl
  · rw [hlong (Nat.lt_of_not_le h4) h50, decide_eq_false h4]; rfl

/-- PW.COMPLETE on 13 bits (R125). -/
theorem exec_pwComplete {s : State} (h : s.pwAcc.length = 13) : exec .pwComplete s = .next (completeAcc s) := if_pos h

/-- The falling edge that delivers the 13th bit performs PW.COMPLETE (R120 step 4, R125). -/
theorem pwSym_fall_complete {s : State} (hh : s.halted = false) (hl : s.pwLastLevel = true)
    (h50 : s.pwIndex - s.pwLastTransitionIndex ≤ 50) (h12 : s.pwAcc.length = 12) :
    exec (.pwSym false) s = exec .pwComplete { s with
      pwIndex := s.pwIndex + 1, pwLastTransitionIndex := s.pwIndex, pwLastLevel := false,
      pwAcc := s.pwAcc ++ [decide (s.pwIndex - s.pwLastTransitionIndex ≤ 4)] } := by
  have h13 : (s.pwAcc ++ [decide (s.pwIndex - s.pwLastTransitionIndex ≤ 4)]).length = 13 := by simp [h12]
  rw [pwSym_fall_append hh hl h50, completeIfFull_of_eq h13, exec_pwComplete h13]

/-- DB.BUTTON on 13 bits (R126). -/
theorem exec_dbButton {acc : List Bit} (h : acc.length = 13) (s : State) :
    exec (.dbButton acc) s = .next { s with result := some (.byte (buttonOf acc)) } := if_pos h

/-- DB.TONE on 13 bits (R127). -/
theorem exec_dbTone {acc : List Bit} (h : acc.length = 13) (s : State) :
    exec (.dbTone acc) s = .next { s with result := some (.nibble (toneOf acc)) } := if_pos h

/-- Settles O14: the completed frame is the one DB.BUTTON and DB.TONE give, and the 13th bit's edge performs it. -/
theorem completionEmitsAndClears : Obligations.CompletionEmitsAndClears := by
  intro s
  refine ⟨?complete, pwSym_fall_complete⟩
  case complete => exact fun h => ⟨doorbellOf s.pwAcc, exec_pwComplete h, exec_dbButton h s, exec_dbTone h s⟩

/-- A position of the bits held before an append still holds its bit after it (R124). -/
theorem some_getD_append {acc : List Bit} {k : Nat} (h : k < acc.length) (new : List Bit) :
    some ((acc ++ new).getD k false) = acc[k]? := by
  rw [List.getD_append _ _ _ _ h, List.getD_eq_getElem _ _ h, List.getElem?_eq_getElem h]

/-- Settles O10: the edge performs PW.COMPLETE on the 12 bits held and the new one, which stands at position 12 and so
is the last bit of `tone`. -/
theorem thirteenthBitEmitsTheFrame : Obligations.ThirteenthBitEmitsTheFrame := by
  intro s hh hl h12 h50
  have h13 : (s.pwAcc ++ [decide (s.pwIndex - s.pwLastTransitionIndex ≤ 4)]).length = 13 := by simp [h12]
  refine ⟨_, (pwSym_fall_complete hh hl h50 h12).trans (exec_pwComplete h13), ?button, ?tone, ?last⟩
  case button =>
    intro k hk
    rw [doorbellOf, buttonOf_getLsbD h13 hk, some_getD_append (by omega)]
  case tone =>
    intro k hk
    rw [doorbellOf, toneOf_getLsbD h13 (by omega), some_getD_append (by omega)]
  case last =>
    rw [doorbellOf, toneOf_getLsbD h13 (by omega), List.getD_append_right _ _ _ _ (by omega), h12]
    rfl

/-! ## The doorbell round trip (R128) -/

/-- A value's bits, least significant first: the order R128 sends them in. -/
def lsbFirst {n : Nat} (v : BitVec n) : List Bit := (List.range n).map (fun k => v.getLsbD k)

theorem lsbFirst_length {n : Nat} (v : BitVec n) : (lsbFirst v).length = n := by simp [lsbFirst]

theorem lsbFirst_getD {n : Nat} (v : BitVec n) {k : Nat} (hk : k < n) : (lsbFirst v).getD k false = v.getLsbD k := by
  simp [lsbFirst, hk]

/-- A start bit, a value in positions 1 to 8 and one in positions 9 to 12 (R98, R128). -/
def doorbellBits (start : Bit) (v : BitVec 8) (t : BitVec 4) : List Bit := start :: (lsbFirst v ++ lsbFirst t)

theorem doorbellBits_length (start : Bit) (v : BitVec 8) (t : BitVec 4) : (doorbellBits start v t).length = 13 := rfl

theorem buttonOf_doorbellBits (start : Bit) (v : BitVec 8) (t : BitVec 4) :
    buttonOf (doorbellBits start v t) = v := by
  refine BitVec.eq_of_getLsbD_eq fun k hk => ?_
  calc (buttonOf (doorbellBits start v t)).getLsbD k
    _ = (doorbellBits start v t).getD (1 + k) false := buttonOf_getLsbD (doorbellBits_length start v t) hk
    _ = (lsbFirst v ++ lsbFirst t).getD k false := by rw [Nat.add_comm]; exact List.getD_cons_succ
    _ = (lsbFirst v).getD k false := List.getD_append _ _ _ _ ((lsbFirst_length v).symm ▸ hk)
    _ = v.getLsbD k := lsbFirst_getD v hk

theorem toneOf_doorbellBits (start : Bit) (v : BitVec 8) (t : BitVec 4) :
    toneOf (doorbellBits start v t) = t := by
  refine BitVec.eq_of_getLsbD_eq fun k hk => ?_
  calc (toneOf (doorbellBits start v t)).getLsbD k
    _ = (doorbellBits start v t).getD (9 + k) false := toneOf_getLsbD (doorbellBits_length start v t) hk
    _ = (lsbFirst v ++ lsbFirst t).getD (8 + k) false := by
      rw [show 9 + k = 8 + k + 1 by omega]; exact List.getD_cons_succ
    _ = (lsbFirst t).getD k false := by
      rw [List.getD_append_right _ _ _ _ (by rw [lsbFirst_length]; omega), lsbFirst_length, Nat.add_sub_cancel_left]
    _ = t.getLsbD k := lsbFirst_getD t hk

/-- Settles O13: each field read back bit by bit is the value sent. -/
theorem doorbellRoundTrip : Obligations.DoorbellRoundTrip := by
  intro s v t start
  have hlen : (doorbellBits start v t).length = 13 := doorbellBits_length start v t
  refine ⟨(exec_dbButton hlen s).trans ?_, (exec_dbTone hlen s).trans ?_⟩
  · rw [buttonOf_doorbellBits]
  · rw [toneOf_doorbellBits]

/-! ## The internal operations by themselves (R121 to R124) -/

/-- PW.CLASSIFY returns whether the pulse is short (R123). -/
theorem exec_pwClassify (elapsed : Nat) (s : State) :
    exec (.pwClassify elapsed) s = .next { s with result := some (.bit (decide (elapsed ≤ 4))) } := rfl

/-- Settles O11: PW.CLASSIFY turns at 4/5; the others are their record updates. -/
theorem timingInternalOperations : Obligations.TimingInternalOperations := by
  intro s
  refine ⟨fun _ _ => rfl, fun _ => rfl, ?short, ?long, fun _ => rfl⟩
  case short =>
    intro elapsed h
    rw [exec_pwClassify, decide_eq_true h]
  case long =>
    intro elapsed h
    rw [exec_pwClassify, decide_eq_false (Nat.not_le.2 h)]

end Machine

end Sys2Proof

/-! PROOFS. The statements of 41_manchester_decoder.md: a sequence decoded by pairs (R152) and its terminator (R153). Each
operation returns the value of a function of its operand alone, and the facts about the two functions are under Laws. -/

namespace Sys2Proof

namespace Machine

/-! ## MANCH.SEQ (R150, R152) -/

/-- MANCH.SEQ returns the values of its sequence's pairs and writes nothing else (R152). -/
theorem exec_manchSeq (w : List Bit) (s : State) :
    exec (.manchSeq w) s = .next { s with result := some (.tris (manchPairs w)) } := rfl

/-- Two chips that differ have the value of the first; equal chips are Invalid (R150). -/
theorem manchPair_eq_ite (a b : Bit) :
    manchPair a b = if a = b then Tri.invalid else if a then Tri.one else Tri.zero := by
  cases a <;> cases b <;> rfl

/-- Settles O16: a pair within the length has both its chips, and its value is theirs. -/
theorem sequenceDecodedPairwise : Obligations.SequenceDecodedPairwise := by
  intro s w
  refine ⟨manchPairs w, exec_manchSeq w s, manchPairs_length w, fun k hk => ?_⟩
  have ha : w[2 * k]? = some w[2 * k] := List.getElem?_eq_getElem (by omega)
  have hb : w[2 * k + 1]? = some w[2 * k + 1] := List.getElem?_eq_getElem (by omega)
  refine ⟨w[2 * k], w[2 * k + 1], ha, hb, ?_⟩
  rw [manchPairs_getElem? w k _ _ ha hb, manchPair_eq_ite]

/-! ## MANCH.TERM (R153) -/

/-- MANCH.TERM returns the terminator of its sequence and writes nothing else (R153). -/
theorem exec_manchTerm (t : List Tri) (s : State) :
    exec (.manchTerm t) s = .next { s with result := some (.nat (terminator t)) } := rfl

/-- Every index before the terminator holds a value, and one that is not Invalid (R153). -/
theorem exists_valid_before_terminator {t : List Tri} {k : Nat} (h : k < terminator t) :
    ∃ x, t[k]? = some x ∧ x ≠ .invalid := by
  have hx : t[k]? = some (t[k]'(h.trans_le (terminator_le t))) := List.getElem?_eq_getElem _
  exact ⟨_, hx, fun hinv => terminator_before h (hinv ▸ hx)⟩

/-- Settles O17: the values before the terminator are valid, and the one at it, where there is one, is Invalid. -/
theorem terminatorIsFirstInvalid : Obligations.TerminatorIsFirstInvalid := fun s t =>
  ⟨terminator t, exec_manchTerm t s, fun _ => exists_valid_before_terminator, terminator_at, terminator_le t⟩

end Machine

end Sys2Proof

/-! PROOFS. The statements of 42_symbol_buffer.md: the buffer's own operations (R165 to R168), its capacity (R169), and
that it is a contiguous run of lane M's stream (R171). The last two rest on one fact about lane M's symbol operation: what it
leaves in the buffer is an end part of what the push of its chip gives. -/

namespace Sys2Proof

namespace Machine

/-! ## BUF.PUSH (R165) -/

/-- BUF.PUSH writes the buffer and nothing else (R165). -/
theorem exec_bufPush (b : Bit) (s : State) :
    exec (.bufPush b) s = .next { s with buf := (pushSymbol b s).buf } := by
  rw [pushSymbol_eq]
  exact congrArg _ (pushSymbol_eq b s)

/-- With room a push is the append alone (R165). -/
theorem pushSymbol_buf_of_room (b : Bit) {s : State} (h : s.buf.length ≠ 1680) :
    (pushSymbol b s).buf = memAppend s.buf b := by
  rw [pushSymbol_buf, if_neg h, memAppend]

/-- On a full buffer a push is the append to what is left without the head (R165). -/
theorem pushSymbol_buf_of_full (b : Bit) {s : State} (h : s.buf.length = 1680) :
    (pushSymbol b s).buf = memAppend (memDropHead s.buf 1) b := by
  rw [pushSymbol_buf, if_pos h, memAppend, memDropHead]

/-- A push is an append, to the whole buffer or to what is left without its head (R165). -/
theorem exists_pushSymbol_buf_eq_memAppend (b : Bit) (s : State) :
    ∃ mem, (pushSymbol b s).buf = memAppend mem b := ⟨_, pushSymbol_buf b s⟩

theorem memAppend_length (mem : Memory) (b : Bit) : (memAppend mem b).length = mem.length + 1 :=
  List.length_append

/-- The symbol appended is at the last address (R62). -/
theorem memAt_append_last (mem : Memory) (b : Bit) :
    memAt (memAppend mem b) ((memAppend mem b).length - 1) = some b := by
  rw [memAppend_length, Nat.add_sub_cancel, memAt_append_new]

/-- After a removal of `k` symbols an address holds what was `k` addresses higher (R63). -/
theorem memAt_drop (mem : Memory) (k a : Nat) : memAt (mem.drop k) a = memAt mem (a + k) :=
  (memAt_dropHead mem k a).trans (congrArg _ (Nat.add_comm k a))

/-- Settles O19: a push is an append, on a full buffer after the head is gone, and an append and a removal keep the
symbols that stay in their order. -/
theorem pushAppendsAtTheTail : Obligations.PushAppendsAtTheTail := by
  intro s b
  obtain ⟨mem, happend⟩ := exists_pushSymbol_buf_eq_memAppend b s
  refine ⟨(pushSymbol b s).buf, exec_bufPush b s, ?nonempty, pushSymbol_wf b s, ?newest, ?room, ?full⟩
  case nonempty => rw [happend, memAppend_length]; exact Nat.le_add_left 1 _
  case newest => rw [happend]; exact memAt_append_last mem b
  case room =>
    intro h
    rw [pushSymbol_buf_of_room b h]
    exact ⟨rfl, fun a => memAt_append_old b⟩
  case full =>
    intro h
    have hleft : (memDropHead s.buf 1).length = 1679 := by rw [memDropHead, List.length_drop, h]
    rw [pushSymbol_buf_of_full b h]
    exact ⟨rfl, fun a ha => (memAt_append_old b (hleft ▸ ha)).trans (memAt_drop s.buf 1 a)⟩

/-! ## What a step leaves of the buffer (R169, R171) -/

/-- A compare on a full buffer removes symbols at the head only, none where the preamble matches (R187 to R192). -/
theorem syncCompare_buf {s t : State} (hl : s.buf.length = 1680) (h : syncCompare s = .next t) :
    ∃ k, t.buf = s.buf.drop k := by
  obtain ⟨t', ht', hcases⟩ := syncCompare_cases hl
  cases ht'.symm.trans h
  rcases hcases with ⟨-, -, rfl⟩ | ⟨-, -, rfl⟩ | ⟨-, -, rfl⟩ | ⟨-, -, -, rfl⟩ | ⟨-, -, -, rfl⟩
  · exact ⟨0, rfl⟩ -- preamble match
  · exact ⟨1, rfl⟩ -- preamble miss
  · exact ⟨_, congrArg State.buf (captureWindow_eq rfl s)⟩ -- capture
  · exact ⟨1, rfl⟩ -- delimiter miss, the search goes on
  · exact ⟨1, rfl⟩ -- delimiter miss at the limit

/-- What MZ.SYM leaves in the buffer: the same while halted, else an end part of what the push gives (R185, R266). -/
theorem mzSym_buf {c : Bit} {s t : State} (h : exec (.mzSym c) s = .next t) :
    s.halted = true ∧ t.buf = s.buf ∨ s.halted = false ∧ ∃ k, t.buf = (pushSymbol c s).buf.drop k := by
  rw [exec_mzSym] at h
  cases hh : s.halted with
  | true => rw [unlessHalted_true hh] at h; cases h; exact .inl ⟨rfl, rfl⟩
  | false =>
    rw [unlessHalted_false hh] at h
    unfold acceptChip at h
    split at h
    next hl => exact .inr ⟨rfl, syncCompare_buf hl h⟩
    next => cases h; exact .inr ⟨rfl, 0, rfl⟩

/-- Lane P's part of a step, its symbol or none, leaves the buffer and `halted` as they were (R29). -/
theorem laneP_part_buf_halted {s u : State} (h : u = s ∨ ∃ b, exec (.pwSym b) s = .next u) :
    u.buf = s.buf ∧ u.halted = s.halted := by
  rcases h with rfl | ⟨b, hb⟩
  · exact ⟨rfl, rfl⟩
  · exact ⟨(pwSym_sameButLaneP hb).buf, (pwSym_sameButLaneP hb).halted⟩

/-- A chip keeps the buffer within capacity (R169). -/
theorem mzSym_wf {c : Bit} {s t : State} (hs : s.buf.wf) (h : exec (.mzSym c) s = .next t) : t.buf.wf := by
  rcases mzSym_buf h with ⟨-, hbuf⟩ | ⟨-, k, hbuf⟩ <;> rw [hbuf]
  · exact hs
  · exact memDropHead_wf k (pushSymbol_wf c s hs)

/-- Settles O24: of what a step runs only a chip writes the buffer, but for a reset, which leaves it empty. -/
theorem bufferNeverExceedsCapacity : Obligations.BufferNeverExceedsCapacity := by
  intro s t hs h
  rcases step_cases h with rfl | rfl | ⟨u, hu, ht⟩
  · exact Nat.zero_le _
  · exact hs
  · have hwf : u.buf.wf := by rw [(laneP_part_buf_halted hu).1]; exact hs
    rcases ht with rfl | ⟨c, hc⟩
    · exact hwf
    · exact mzSym_wf hwf hc

/-! ## The buffer as a run of the stream (R171) -/

/-- What a push leaves is an end part of the buffer with the symbol at its tail: of a full buffer all but the head
(R165). -/
theorem pushSymbol_buf_eq_drop (b : Bit) (s : State) : ∃ k, (pushSymbol b s).buf = (s.buf ++ [b]).drop k := by
  by_cases h : s.buf.length = 1680
  · refine ⟨1, ?_⟩
    rw [pushSymbol_buf_of_full b h, memAppend, memDropHead, List.drop_append_of_le_length (by omega)]
  · exact ⟨0, pushSymbol_buf_of_room b h⟩

/-- What a step can do with a given word, by the word's bits (R90, R260): a reset, a halt, or lane P's symbol or none
and after it lane M's chip exactly when the word carries one. -/
theorem step_cases_of_word {s t : State} {iw : BitVec 6} {ws : List (BitVec 6)} (hw : s.inputs = iw :: ws)
    (h : step s = .next t) :
    iw.getLsbD 5 = true ∧ t = resetElements (takeWord s) ∨
    iw.getLsbD 5 = false ∧ iw.getLsbD 4 = true ∧ t = setHalted (takeWord s) ∨
    iw.getLsbD 5 = false ∧ iw.getLsbD 4 = false ∧
      ∃ u, (u = takeWord s ∨ ∃ b, exec (.pwSym b) (takeWord s) = .next u) ∧
        (iw.getLsbD 3 = false ∧ t = u ∨ iw.getLsbD 3 = true ∧ exec (.mzSym (iw.getLsbD 2)) u = .next t) := by
  rw [step_cons hw] at h
  obtain ⟨hrst, hcancel, hslots, -⟩ := inputWordSelectsOperations iw
  cases h5 : iw.getLsbD 5 with
  | true => rw [hrst h5] at h; cases h; exact .inl ⟨rfl, rfl⟩
  | false =>
    cases h4 : iw.getLsbD 4 with
    | true => rw [hcancel h5 h4] at h; cases h; exact .inr (.inl ⟨rfl, rfl, rfl⟩)
    | false =>
      obtain ⟨hidle, hlevel, hchip, hboth⟩ := hslots h5 h4
      refine .inr (.inr ⟨rfl, rfl, ?_⟩)
      cases h3 : iw.getLsbD 3 <;> cases h1 : iw.getLsbD 1
      case false.false => rw [hidle h3 h1] at h; cases h; exact ⟨_, .inl rfl, .inl ⟨rfl, rfl⟩⟩
      case false.true =>
        rw [hlevel h3 h1, runAll_single] at h
        exact ⟨t, .inr ⟨_, h⟩, .inl ⟨rfl, rfl⟩⟩
      case true.false =>
        rw [hchip h3 h1, runAll_single] at h
        exact ⟨_, .inl rfl, .inr ⟨rfl, h⟩⟩
      case true.true =>
        rw [hboth h3 h1, runAll_pair, andThen_eq_next] at h
        obtain ⟨u, hp, hm⟩ := h
        exact ⟨u, .inr ⟨_, hp⟩, .inr ⟨rfl, hm⟩⟩

/-- Settles O25: the chip a step accepts is pushed, and the push and the compare after it remove at the head only. -/
theorem bufferIsARunOfTheStream : Obligations.BufferIsARunOfTheStream := by
  intro s t iw ws hw h
  rcases step_cases_of_word hw h with ⟨h5, rfl⟩ | ⟨h5, h4, rfl⟩ | ⟨h5, h4, u, hu, ht⟩
  · exact ⟨fun _ => rfl, fun hn => absurd (h5.symm.trans hn) nofun⟩
  · refine ⟨fun hr => absurd (h5.symm.trans hr) nofun, fun _ => ⟨0, ?_⟩⟩
    rw [if_neg fun hc => Bool.false_ne_true (hc.1.symm.trans h4)]
    rfl
  · refine ⟨fun hr => absurd (h5.symm.trans hr) nofun, fun _ => ?_⟩
    obtain ⟨hbuf, hhalted⟩ := laneP_part_buf_halted hu
    rw [takeWord_buf] at hbuf
    rw [takeWord_halted] at hhalted
    rcases ht with ⟨h3, rfl⟩ | ⟨h3, hm⟩
    · rw [if_neg fun hc => Bool.false_ne_true (h3.symm.trans hc.2.1)]
      exact ⟨0, hbuf⟩
    · rcases mzSym_buf hm with ⟨hh, hsame⟩ | ⟨hh, k, hdrop⟩ <;> rw [hhalted] at hh
      · rw [if_neg fun hc => Bool.false_ne_true (hc.2.2.symm.trans hh)]
        exact ⟨0, hsame.trans hbuf⟩
      · obtain ⟨j, hj⟩ := pushSymbol_buf_eq_drop (iw.getLsbD 2) u
        rw [if_pos ⟨h4, h3, hh⟩, hdrop, hj, hbuf, List.drop_drop]
        exact ⟨j + k, rfl⟩

/-! ## BUF.EVICT, BUF.REMOVE and BUF.READ (R63, R166 to R168) -/

/-- BUF.REMOVE drops the first symbols and writes nothing else (R167). -/
theorem exec_bufRemove (k : Nat) (s : State) : exec (.bufRemove k) s = .next { s with buf := s.buf.drop k } := rfl

/-- BUF.EVICT is the removal of one symbol (R166). -/
theorem exec_bufEvict (s : State) : exec .bufEvict s = exec (.bufRemove 1) s := rfl

/-- BUF.READ returns the leading window of a buffer that holds it and writes nothing else (R168). -/
theorem exec_bufRead {n : Nat} {s : State} (h : n ≤ s.buf.length) :
    exec (.bufRead n) s = .next { s with result := some (.bits (s.buf.take n)) } := withWindow_ok h

/-- Settles O20: both operations are removals at the head, and a removal renumbers downward. -/
theorem removalIsAtTheHead : Obligations.RemovalIsAtTheHead := fun s =>
  ⟨(exec_bufEvict s).trans (exec_bufRemove 1 s), memAt_drop s.buf 1,
    fun k => ⟨exec_bufRemove k s, memAt_drop s.buf k⟩⟩

/-- Settles O21: the window is the buffer's first `n` symbols. -/
theorem leadingWindowRead : Obligations.LeadingWindowRead := fun s _ h =>
  ⟨s.buf.take _, exec_bufRead h, List.length_take_of_le h, fun _ ha => List.getElem?_take_of_lt ha⟩

end Machine

end Sys2Proof

/-! PROOFS. The statements of 43_frame_synchronizer.md: MZ.SYM and the compare it makes (R185, R186), the two compares
by their outcomes (R187, R189, R191), the capture and the packet it cuts out (R192 to R194), the transition table (R198),
and that a delimiter search ends (R199). Each outcome of a compare is one equation of whole states; the statements about
MZ.SYM put the equation of the push before one of these. -/

namespace Sys2Proof

namespace Machine

/-! ## MZ.SYM and SYNC.STEP (R185, R186) -/

theorem exec_syncStep (s : State) : exec .syncStep s = syncCompare s := rfl

/-- MZ.SYM does nothing while halted (R266). -/
theorem exec_mzSym_of_halted {s : State} (b : Bit) (h : s.halted = true) : exec (.mzSym b) s = .next s :=
  unlessHalted_true h _

/-- A chip that does not fill the buffer is pushed, and that is all (R185). -/
theorem exec_mzSym_of_not_full {s : State} {b : Bit} {w : List Bit} (hh : s.halted = false)
    (hw : w = (if s.buf.length = 1680 then s.buf.drop 1 else s.buf) ++ [b]) (hl : w.length ≠ 1680) :
    exec (.mzSym b) s = .next { s with buf := w } := by
  rw [exec_mzSym, unlessHalted_false hh, acceptChip_eq b s hw, if_neg hl]

/-- A chip that leaves the buffer full is pushed, and one compare is made on what the push leaves (R185). -/
theorem exec_mzSym_of_full {s : State} {b : Bit} {w : List Bit} (hh : s.halted = false)
    (hw : w = (if s.buf.length = 1680 then s.buf.drop 1 else s.buf) ++ [b]) (hl : w.length = 1680) :
    exec (.mzSym b) s = exec .syncStep { s with buf := w } := by
  rw [exec_mzSym, unlessHalted_false hh, acceptChip_eq b s hw, if_pos hl, exec_syncStep]

/-- Settles O26: the push lengthens a buffer by one, but for a full one, which it leaves full. -/
theorem chipIsPushedThenComparedWhenFull : Obligations.ChipIsPushedThenComparedWhenFull := by
  intro s b
  refine ⟨exec_mzSym_of_halted b, ?otherLength, ?lastRoom, ?full⟩
  case otherLength =>
    intro hh h79 h80
    refine exec_mzSym_of_not_full hh (by rw [if_neg h80]) ?_
    rw [List.length_append, List.length_singleton]
    omega
  case lastRoom =>
    intro hh hl
    refine exec_mzSym_of_full hh (by rw [if_neg (by omega)]) ?_
    rw [List.length_append, hl, List.length_singleton]
  case full =>
    intro hh hl
    refine exec_mzSym_of_full hh (by rw [if_pos hl]) ?_
    rw [List.length_append, List.length_drop, hl, List.length_singleton]

/-- While the preamble is searched the compare is SYNC.PRE (R186). -/
theorem exec_syncStep_of_preamble {s : State} (h : s.syncState = .searchingPreamble) :
    exec .syncStep s = exec .syncPre s := by
  rw [exec_syncStep, syncCompare, h]; rfl

/-- While the delimiter is searched the compare is SYNC.SFD (R186). -/
theorem exec_syncStep_of_delimiter {s : State} (h : s.syncState = .searchingDelimiter) :
    exec .syncStep s = exec .syncSfd s := by
  rw [exec_syncStep, syncCompare, h]; rfl

/-- Settles O27: on a full buffer every outcome of the compare is a next state. -/
theorem compareChosenByState : Obligations.CompareChosenByState := by
  intro s hl
  obtain ⟨t, ht, -⟩ := syncCompare_cases hl
  exact ⟨t, ht, fun h => (exec_syncStep_of_preamble h).symm.trans ht,
    fun h => (exec_syncStep_of_delimiter h).symm.trans ht⟩

/-- A chip that leaves the buffer full while the preamble is searched: the push, then SYNC.PRE (R185, R186). -/
theorem exec_mzSym_searching_preamble {s : State} {b : Bit} {w : List Bit} (hh : s.halted = false)
    (hs : s.syncState = .searchingPreamble)
    (hw : w = (if s.buf.length = 1680 then s.buf.drop 1 else s.buf) ++ [b]) (hl : w.length = 1680) :
    exec (.mzSym b) s = exec .syncPre { s with buf := w } :=
  (exec_mzSym_of_full hh hw hl).trans (exec_syncStep_of_preamble hs)

/-- A chip that leaves the buffer full while the delimiter is searched: the push, then SYNC.SFD (R185, R186). -/
theorem exec_mzSym_searching_delimiter {s : State} {b : Bit} {w : List Bit} (hh : s.halted = false)
    (hs : s.syncState = .searchingDelimiter)
    (hw : w = (if s.buf.length = 1680 then s.buf.drop 1 else s.buf) ++ [b]) (hl : w.length = 1680) :
    exec (.mzSym b) s = exec .syncSfd { s with buf := w } :=
  (exec_mzSym_of_full hh hw hl).trans (exec_syncStep_of_delimiter hs)

/-! ## The compare with the preamble (R187) -/

theorem exec_syncPre_match {s : State} (hl : 32 ≤ s.buf.length) (hw : s.buf.take 32 = Config.preamble) :
    exec .syncPre s = .next { s with syncState := .searchingDelimiter, sfdAttempts := 0 } :=
  (withWindow_ok hl).trans (if_pos hw)

theorem exec_syncPre_miss {s : State} (hl : 32 ≤ s.buf.length) (hw : s.buf.take 32 ≠ Config.preamble) :
    exec .syncPre s = .next { s with buf := s.buf.drop 1, condsM := s.condsM ++ [.patternMiss .preamble] } :=
  (withWindow_ok hl).trans (if_neg hw)

/-- Settles O28. -/
theorem preambleCompare : Obligations.PreambleCompare := fun _ hl => ⟨exec_syncPre_match hl, exec_syncPre_miss hl⟩

/-! ## The compare with the delimiter (R189, R191) -/

theorem exec_syncBailout (s : State) :
    exec .syncBailout s = .next { s with syncState := .searchingPreamble, sfdAttempts := 0 } := rfl

theorem exec_syncSfd_miss {s : State} (hl : 16 ≤ s.buf.length) (hw : s.buf.take 16 ≠ Config.sfd) :
    exec .syncSfd s = .next (missDelimiter s) :=
  (withWindow_ok hl).trans (if_neg hw)

/-- A miss with attempts left is counted, and the search goes on (R189). -/
theorem exec_syncSfd_miss_below_limit {s : State} (hl : 16 ≤ s.buf.length) (hw : s.buf.take 16 ≠ Config.sfd)
    (hmore : s.sfdAttempts + 1 < s.params.sfdAttemptLimit) :
    exec .syncSfd s = .next { s with
      buf := s.buf.drop 1, condsM := s.condsM ++ [.patternMiss .delimiter], sfdAttempts := s.sfdAttempts + 1 } := by
  rw [exec_syncSfd_miss hl hw, missDelimiter_eq, if_neg (Nat.not_le.2 hmore), if_neg (Nat.not_le.2 hmore)]

/-- A miss with the last attempt gives the search up (R189, R191). -/
theorem exec_syncSfd_miss_at_limit {s : State} (hl : 16 ≤ s.buf.length) (hw : s.buf.take 16 ≠ Config.sfd)
    (hlast : s.params.sfdAttemptLimit ≤ s.sfdAttempts + 1) :
    exec .syncSfd s = .next { s with
      buf := s.buf.drop 1, condsM := s.condsM ++ [.patternMiss .delimiter],
      syncState := .searchingPreamble, sfdAttempts := 0 } := by
  rw [exec_syncSfd_miss hl hw, missDelimiter_eq, if_pos hlast, if_pos hlast]

/-- On a match SYNC.SFD is FRAME.CAPTURE and then SYNC.BAILOUT's return (R189). -/
theorem exec_syncSfd_match {s : State} (hl : 16 ≤ s.buf.length) (hw : s.buf.take 16 = Config.sfd) :
    exec .syncSfd s = andThen (exec .frameCapture s) (exec .syncBailout) :=
  (withWindow_ok hl).trans (if_pos hw)

/-- FRAME.CAPTURE on a buffer that holds its window completes (R192). -/
theorem exec_frameCapture {s : State} (hl : 1680 ≤ s.buf.length) :
    exec .frameCapture s = .next (captureWindow (s.buf.take 1680) s) := captureFrame_ok hl

/-- Settles O29: the outcomes of a compare with the delimiter, one equation each. -/
theorem delimiterCompare : Obligations.DelimiterCompare := fun s =>
  ⟨exec_syncBailout s, exec_syncSfd_miss_below_limit, exec_syncSfd_miss_at_limit, fun hl hw =>
    ⟨_, exec_frameCapture hl, by
      rw [exec_syncSfd_match (by omega) hw, exec_frameCapture hl, andThen_next, exec_syncBailout]⟩⟩

/-! ## The capture (R192, R194) -/

/-- A capture whose packet is longer than a header emits its frame (R192). -/
theorem captureWindow_of_long {w pkt : List Bit} {e : Nat} (s : State) (he : e = terminator (manchPairs w))
    (hp : pkt = packetOf (manchPairs w) e) (h : 88 < pkt.length) :
    captureWindow w s = { s with buf := s.buf.drop (2 * e), out := { s.out with zwave := some (buildFrame pkt) } } := by
  subst he
  rw [captureWindow_eq hp, if_pos h, if_pos h, List.append_nil]

/-- A capture whose packet is no longer than a header emits the failure notice and records it (R192). -/
theorem captureWindow_of_short {w pkt : List Bit} {e : Nat} (s : State) (he : e = terminator (manchPairs w))
    (hp : pkt = packetOf (manchPairs w) e) (h : pkt.length ≤ 88) :
    captureWindow w s = { s with
      buf := s.buf.drop (2 * e), condsM := s.condsM ++ [.structuralShort pkt.length],
      out := { s.out with fail := some pkt.length } } := by
  subst he
  rw [captureWindow_eq hp, if_neg (Nat.not_lt.2 h), if_neg (Nat.not_lt.2 h)]

/-- The terminator of the capture's window is at most `WIN_BITS` (R153). -/
theorem terminator_window_le (buf : List Bit) : terminator (manchPairs (buf.take 1680)) ≤ 840 := by
  have hterm := terminator_le (manchPairs (buf.take 1680))
  rw [manchPairs_length, List.length_take] at hterm
  omega

/-- Settles O30: the capture's window, cut at its terminator, by the length of the packet in it. -/
theorem captureEmitsAndRemoves : Obligations.CaptureEmitsAndRemoves := by
  intro s hl t e pkt
  have hlen : pkt.length = e - 8 := packetOf_length le_rfl
  refine ⟨fun hsfd => ?delimiter, terminator_window_le s.buf, hlen, fun hshort => ?short, fun hlong => ?long⟩
  case delimiter => exact terminator_of_delimiter (by rw [List.take_take]; exact hsfd)
  case short => rw [exec_frameCapture hl, captureWindow_of_short s rfl rfl hshort, ← hlen]
  case long => rw [exec_frameCapture hl, captureWindow_of_long s rfl rfl hlong]

/-! ## The packet (R193) -/

/-- Within PKT.EXTRACT's domain it returns the packet and writes nothing else. -/
theorem exec_pktExtract {t : List Tri} {e : Nat} (h : packetRangeValid t e = true) (s : State) :
    exec (.pktExtract t e) s = .next { s with result := some (.bits (packetOf t e)) } := if_pos h

/-- Within that domain the packet's bits, made tri-state values again, are the values `t[8 .. e-1]`. -/
theorem packetOf_values {t : List Tri} {e : Nat} (h : packetRangeValid t e = true) :
    (packetOf t e).map (fun b => if b then Tri.one else Tri.zero) = (t.drop 8).take (e - 8) := by
  obtain ⟨-, hvalid⟩ := Bool.and_eq_true_iff.1 h
  exact filterMap_triBit_map fun x hx => of_decide_eq_true (List.all_eq_true.1 hvalid x hx)

/-- Settles O31: the packet has as many bits as `t[8 .. e-1]` has values, and each bit is its value. -/
theorem packetIsTheBitsBeforeTheTerminator : Obligations.PacketIsTheBitsBeforeTheTerminator := by
  intro s t e _ hle hvalid
  have hrange := packetRangeValid_iff.2 ⟨hle, hvalid⟩
  have hvalues := packetOf_values hrange
  have hlen : (packetOf t e).length = e - 8 := by
    have := congrArg List.length hvalues
    rw [List.length_map, List.length_take, List.length_drop] at this
    omega
  refine ⟨packetOf t e, exec_pktExtract hrange s, hlen, fun i hi => ?_⟩
  have hbit : (packetOf t e)[i]? = some (packetOf t e)[i] := List.getElem?_eq_getElem (by omega)
  refine ⟨_, hbit, ?_⟩
  rw [← List.getElem?_drop, ← List.getElem?_take_of_lt hi, ← hvalues, List.getElem?_map, hbit, Option.map_some]

/-! ## From chips to record (R106, R192 to R194) -/

/-- The eight bits whose chips are the delimiter (R95, R106). -/
def delimiterBits : List Bit := [true, true, true, true, false, false, false, false]

theorem sfd_eq_chipsOf : Config.sfd = chipsOf delimiterBits := rfl

theorem chipsOf_append (p q : List Bit) : chipsOf (p ++ q) = chipsOf p ++ chipsOf q := List.flatMap_append

/-- The decoding of a delimiter, a packet's chips and a pair that is no bit: the delimiter's and the packet's bits, then
Invalid (R150, R152). -/
theorem manchPairs_transmitted (pkt : List Bit) (x : Bit) (rest : List Bit) :
    manchPairs (Config.sfd ++ chipsOf pkt ++ x :: x :: rest) =
      (delimiterBits ++ pkt).map (fun b => if b then Tri.one else Tri.zero) ++ .invalid :: manchPairs rest := by
  rw [sfd_eq_chipsOf, ← chipsOf_append, manchPairs_chipsOf, manchPairs, manchPair_self]

theorem terminator_transmitted (pkt : List Bit) (x : Bit) (rest : List Bit) :
    terminator (manchPairs (Config.sfd ++ chipsOf pkt ++ x :: x :: rest)) = 8 + pkt.length := by
  rw [manchPairs_transmitted, terminator_append_bits, List.length_append]; rfl

theorem packetOf_transmitted (pkt : List Bit) (x : Bit) (rest : List Bit) :
    packetOf (manchPairs (Config.sfd ++ chipsOf pkt ++ x :: x :: rest)) (8 + pkt.length) = pkt := by
  have hdrop : (manchPairs (Config.sfd ++ chipsOf pkt ++ x :: x :: rest)).drop 8 =
      pkt.map (fun b => if b then Tri.one else Tri.zero) ++ .invalid :: manchPairs rest := by
    rw [manchPairs_transmitted]; rfl
  rw [packetOf, Config.skipBits_eq, hdrop, Nat.add_sub_cancel_left, List.take_left' (List.length_map _),
    filterMap_triBit_bits]

/-- What a capture leaves of the transmitted chips: the pair that is no bit and all after it (R194). -/
theorem drop_transmitted (pkt : List Bit) (x : Bit) (rest : List Bit) :
    (Config.sfd ++ chipsOf pkt ++ x :: x :: rest).drop (2 * (8 + pkt.length)) = x :: x :: rest := by
  refine List.drop_left' ?_
  rw [List.length_append, chipsOf_length, Config.sfd_length, Nat.mul_add]

/-- A chip that completes a full buffer with the delimiter at its head: the capture of that buffer, then the return to
the preamble search (R185, R189). -/
theorem exec_mzSym_capture {s : State} {b : Bit} {w : List Bit} (hh : s.halted = false)
    (hs : s.syncState = .searchingDelimiter)
    (hw : w = (if s.buf.length = 1680 then s.buf.drop 1 else s.buf) ++ [b]) (hl : w.length = 1680)
    (hsfd : w.take 16 = Config.sfd) :
    exec (.mzSym b) s =
      .next { captureWindow w { s with buf := w } with syncState := .searchingPreamble, sfdAttempts := 0 } := by
  rw [exec_mzSym_searching_delimiter hh hs hw hl,
    exec_syncSfd_match (s := { s with buf := w }) (by dsimp only; omega) hsfd,
    exec_frameCapture (s := { s with buf := w }) hl.ge, andThen_next, exec_syncBailout, List.take_of_length_le hl.le]

/-- Settles O32: the transmitted chips decode to the packet before their terminator, and the capture is of that
packet. -/
theorem transmittedPacketIsCaptured : Obligations.TransmittedPacketIsCaptured := by
  intro s b pkt x rest hh hs hl hchips
  have hterm := terminator_transmitted pkt x rest
  have hpkt := packetOf_transmitted pkt x rest
  have hdrop := drop_transmitted pkt x rest
  have hsfd : (Config.sfd ++ chipsOf pkt ++ x :: x :: rest).take 16 = Config.sfd := by
    rw [List.append_assoc]; exact List.take_left' Config.sfd_length
  rw [← hchips] at hterm hpkt hdrop hsfd
  have hstep := exec_mzSym_capture (b := b) hh hs (by rw [if_neg (by omega)])
    (by rw [List.length_append, hl, List.length_singleton]) hsfd
  refine ⟨_, hstep, rfl, rfl, ?_⟩
  rcases Nat.lt_or_ge 88 pkt.length with hlong | hshort
  · rw [captureWindow_of_long _ hterm.symm hpkt.symm hlong]
    exact ⟨hdrop, rfl, fun _ => ⟨rfl, rfl⟩, fun h => absurd hlong (Nat.not_lt.2 h)⟩
  · rw [captureWindow_of_short _ hterm.symm hpkt.symm hshort]
    exact ⟨hdrop, rfl, fun h => absurd h (Nat.not_lt.2 hshort), fun _ => ⟨rfl, rfl⟩⟩

/-! ## The transition table (R198) -/

/-- A capture takes the consumed symbols off the buffer and adds one record, the frame or the failure notice, to the
outputs (R192, R194). -/
theorem captureWindow_buf_out {w pkt : List Bit} {e : Nat} (s : State) (he : e = terminator (manchPairs w))
    (hp : pkt = packetOf (manchPairs w) e) :
    (captureWindow w s).buf = s.buf.drop (2 * e) ∧
      ((captureWindow w s).out = { s.out with zwave := some (buildFrame pkt) } ∨
        (captureWindow w s).out = { s.out with fail := some pkt.length }) := by
  rcases Nat.lt_or_ge 88 pkt.length with hlong | hshort
  · rw [captureWindow_of_long s he hp hlong]; exact ⟨rfl, .inl rfl⟩
  · rw [captureWindow_of_short s he hp hshort]; exact ⟨rfl, .inr rfl⟩

/-- Settles O33: each row is one outcome of MZ.SYM, and of the other operations only RST writes lane M (R29). -/
theorem synchronizerTransitions : Obligations.SynchronizerTransitions := by
  intro s
  refine ⟨?chip, fun b => exec_mzSym_of_halted b, ?rst, fun t b h => (pwSym_sameButLaneP h).syncState, ?cancel, ?idle⟩
  case rst => rintro _ ⟨⟩; rfl
  case cancel => rintro _ ⟨⟩; rfl
  case idle => rintro _ ⟨⟩; rfl
  case chip =>
    intro t b hh _ ht w pkt
    have hpush : w = (if s.buf.length = 1680 then s.buf.drop 1 else s.buf) ++ [b] := rfl
    have hpkt : pkt = packetOf (manchPairs w) (terminator (manchPairs w)) := rfl
    clear_value pkt w
    refine ⟨fun hl => ?room, fun hl hs => ?preamble, fun hl hs => ?delimiter⟩
    case room =>
      cases (exec_mzSym_of_not_full hh hpush hl).symm.trans ht
      exact ⟨rfl, rfl, rfl, rfl⟩
    case preamble =>
      have hpre := (exec_mzSym_searching_preamble hh hs hpush hl).symm.trans ht
      have h32 : 32 ≤ w.length := by omega
      refine ⟨fun hw => ?found, fun hw => ?missed⟩
      case found => cases (exec_syncPre_match h32 hw).symm.trans hpre; exact ⟨rfl, rfl, rfl, rfl⟩
      case missed => cases (exec_syncPre_miss h32 hw).symm.trans hpre; exact ⟨hs, rfl, rfl, rfl⟩
    case delimiter =>
      have hdel := (exec_mzSym_searching_delimiter hh hs hpush hl).symm.trans ht
      have h16 : 16 ≤ w.length := by omega
      refine ⟨fun hw => ?captured, fun hw hmore => ?missed, fun hw hlast => ?givenUp⟩
      case captured =>
        have ⟨hbuf, hout⟩ := captureWindow_buf_out { s with buf := w } rfl hpkt
        cases (exec_mzSym_capture hh hs hpush hl hw).symm.trans ht
        exact ⟨rfl, rfl, hbuf, hout⟩
      case missed =>
        cases (exec_syncSfd_miss_below_limit (s := { s with buf := w }) h16 hw hmore).symm.trans hdel
        exact ⟨hs, rfl, rfl, rfl⟩
      case givenUp =>
        cases (exec_syncSfd_miss_at_limit (s := { s with buf := w }) h16 hw hlast).symm.trans hdel
        exact ⟨rfl, rfl, rfl, rfl⟩

/-! ## A delimiter search ends (R199) -/

/-- A delimiter search between steps, with nothing but the given chips to come. -/
structure State.SearchesDelimiterIn (s : State) (chips : List Bit) : Prop where
  inv : s.Inv
  accepting : s.halted = false
  searching : s.syncState = .searchingDelimiter
  words : s.inputs = chips.map (laneWord .m)

/-- While the delimiter is searched a chip always fills the buffer (I4 of R36), and the compare it makes ends the search
or counts one more attempt (R189). -/
theorem mzSym_of_delimiter_search {s : State} (b : Bit) (hs : s.Inv) (hh : s.halted = false)
    (hsearch : s.syncState = .searchingDelimiter) : ∃ t, exec (.mzSym b) s = .next t ∧
      (t.syncState = .searchingPreamble ∨
        t.syncState = .searchingDelimiter ∧ t.sfdAttempts = s.sfdAttempts + 1) := by
  obtain ⟨-, hlong⟩ := hs.delimiter hsearch
  have hfull : (pushSymbol b s).buf.length = 1680 := by
    rw [pushSymbol_length b s hs.buf, Config.cap_eq]; omega
  obtain ⟨t, ht, hcases⟩ := syncCompare_cases hfull
  refine ⟨t, ?_, ?_⟩
  · rw [exec_mzSym_of_full hh (pushSymbol_buf b s) hfull, ← ht, exec_syncStep, pushSymbol_eq]
  · rw [pushSymbol_syncState, hsearch, pushSymbol_sfdAttempts] at hcases
    rcases hcases with ⟨h, -⟩ | ⟨h, -⟩ | ⟨-, -, rfl⟩ | ⟨-, -, -, rfl⟩ | ⟨-, -, -, rfl⟩
    · cases h
    · cases h
    · exact .inl rfl
    · exact .inr ⟨rfl, rfl⟩
    · exact .inl rfl

/-- A step whose word is one chip is MZ.SYM of that chip (R106, R260). -/
theorem step_chip {s : State} {b : Bit} {ws : List (BitVec 6)} (h : s.inputs = laneWord .m b :: ws) :
    step s = exec (.mzSym b) (takeWord s) := by
  rw [step_cons h, decodeInputWord_laneWord, runAll_single]

/-- A chip's step ends a delimiter search or leaves it with one attempt more, of the same limit, and the chips left. -/
theorem step_of_delimiter_search {s : State} {b : Bit} {chips : List Bit} (h : s.SearchesDelimiterIn (b :: chips)) :
    ∃ t, step s = .next t ∧ (t.syncState = .searchingPreamble ∨
      t.SearchesDelimiterIn chips ∧ t.sfdAttempts = s.sfdAttempts + 1 ∧ t.params = s.params) := by
  have hwords : s.inputs = laneWord .m b :: chips.map (laneWord .m) := h.words
  obtain ⟨t, ht, hout⟩ := mzSym_of_delimiter_search b (takeWord_inv h.inv) h.accepting h.searching
  have hframe := mzSym_sameButLaneM ht
  have hstep : step s = .next t := (step_chip hwords).trans ht
  refine ⟨t, hstep, hout.imp_right fun ⟨hsync, hatt⟩ => ⟨?again, hatt, hframe.params⟩⟩
  have hleft : t.inputs = chips.map (laneWord .m) := by rw [hframe.inputs, takeWord_inputs, hwords, List.tail_cons]
  exact ⟨step_inv h.inv hstep, hframe.halted.trans h.accepting, hsync, hleft⟩

/-- A run's first step (Host.Core.run). -/
theorem run_succ_of_step {s t : State} (h : step s = .next t) (n : Nat) :
    Host.Core.run core (n + 1) s = Host.Core.run core n t := by
  have hcore : core.step s = .next t := h
  simp only [Host.Core.run, hcore]

/-- A delimiter search with as many chips to come as it has attempts left ends with one of them: each chip that does not
end it uses up an attempt, and no search is without one (I4 of R36). -/
theorem delimiter_search_ends {s : State} {chips : List Bit} (h : s.SearchesDelimiterIn chips)
    (hleft : s.params.sfdAttemptLimit ≤ s.sfdAttempts + chips.length) :
    ∃ n t, n ≤ chips.length ∧ Host.Core.run core n s = .next t ∧ t.syncState = .searchingPreamble := by
  induction chips generalizing s with
  | nil =>
    obtain ⟨hbelow, -⟩ := h.inv.delimiter h.searching
    exact absurd hleft (Nat.not_le.2 hbelow)
  | cons b chips ih =>
    obtain ⟨t, hstep, hended | ⟨hagain, hatt, hparams⟩⟩ := step_of_delimiter_search h
    · exact ⟨1, t, Nat.le_add_left 1 _, run_succ_of_step hstep 0, hended⟩
    · rw [List.length_cons] at hleft
      obtain ⟨n, u, hn, hrun, hu⟩ := ih hagain (by rw [hatt, hparams]; omega)
      exact ⟨n + 1, u, Nat.succ_le_succ hn, (run_succ_of_step hstep n).trans hrun, hu⟩

/-- Settles O34, by induction on the chips to come. -/
theorem delimiterSearchEnds : Obligations.DelimiterSearchEnds := by
  intro s chips hinv hh hsearch hwords hchips
  exact delimiter_search_ends ⟨hinv, hh, hsearch, hwords⟩ (by omega)

end Machine

end Sys2Proof

/-! PROOFS. The statements of 44_field_extractor_checksum.md: packing (R215), the fields of a packet by its bytes (R216,
R217, R223), the checksum (R220 to R224, R226), and that a failing checksum is only reported (R225). The checksum rests on
three facts: the exclusive or by bits, what CHK.FRAME gives for a sequence with one more byte at its end, and `crc_ok` by
the byte at `length - 1`. -/

namespace Sys2Proof

namespace Machine

/-! ## FX.PACK (R215) -/

/-- FX.PACK returns the packet's bytes and writes nothing else (R215). -/
theorem exec_fxPack (pkt : List Bit) (s : State) :
    exec (.fxPack pkt) s = .next { s with result := some (.bytes (packBytes pkt)) } := rfl

/-- The value of a sequence has its elements as its bits, the first one most significant (R9). -/
theorem getElem?_eq_testBit_val {q : List Bit} {i : Nat} (h : i < q.length) :
    q[i]? = some ((val q).testBit (q.length - 1 - i)) := by
  induction q generalizing i with
  | nil => exact absurd h (Nat.not_lt_zero i)
  | cons b q ih =>
    rw [val, Nat.mul_comm, Nat.testBit_two_pow_mul_add _ (val_lt q), List.length_cons, Nat.add_sub_cancel]
    cases i with
    | zero =>
      rw [if_neg (by omega), Nat.sub_zero, Nat.sub_self, List.getElem?_cons_zero]
      cases b <;> rfl
    | succ i =>
      rw [List.length_cons] at h
      rw [if_pos (by omega), List.getElem?_cons_succ, ih (by omega), Nat.sub_sub, Nat.add_comm 1 i]

/-- Position `i` of a slice is position `lo + i` of the sequence (R9). -/
theorem slice_getElem? {α : Type} (q : List α) {lo hi i : Nat} (h : i < hi + 1 - lo) :
    (slice q lo hi)[i]? = q[lo + i]? := by
  rw [slice, List.getElem?_take_of_lt h, List.getElem?_drop]

/-- Bit `7 - i` of byte `j` is bit `8j + i` of the packet (R215). -/
theorem byteAt_packBytes_getLsbD {pkt : List Bit} {i j : Nat} (hj : 8 * j + 8 ≤ pkt.length) (hi : i < 8) :
    pkt[8 * j + i]? = some ((byteAt (packBytes pkt) j).getLsbD (7 - i)) := by
  have hlen : (slice pkt (8 * j) (8 * j + 7)).length = 8 := by rw [slice_length pkt (by omega)]; omega
  rw [BitVec.getLsbD, byteAt_packBytes_toNat hj, ← slice_getElem? pkt (lo := 8 * j) (hi := 8 * j + 7) (by omega),
    getElem?_eq_testBit_val (by omega), hlen]

/-- The byte at an index within the sequence. -/
theorem getElem?_eq_byteAt {bytes : List Byte} {j : Nat} (h : j < bytes.length) :
    bytes[j]? = some (byteAt bytes j) := by
  rw [byteAt, List.getD_eq_getElem bytes 0#8 h, List.getElem?_eq_getElem h]

/-- Settles O35: a byte's bits are those of its range of offsets. -/
theorem packingIsMostSignificantFirst : Obligations.PackingIsMostSignificantFirst := by
  intro s pkt
  refine ⟨packBytes pkt, exec_fxPack pkt s, packBytes_length pkt, fun j hj => ⟨byteAt (packBytes pkt) j, ?_, ?_⟩⟩
  · exact getElem?_eq_byteAt (by rwa [packBytes_length])
  · exact fun i hi => byteAt_packBytes_getLsbD (by omega) hi

/-! ## CHK.XOR (R220) -/

/-- CHK.XOR returns the exclusive or of its bytes and writes nothing else (R220). -/
theorem exec_chkXor (seq : List Byte) (s : State) :
    exec (.chkXor seq) s = .next { s with result := some (.byte (xorSum seq)) } := rfl

/-- One more bit in front changes the parity of a number of ones exactly when it is 1. -/
theorem bit_add_parity (b : Bit) (n : Nat) : ((b.toNat + n) % 2 == 1) = (b ^^ (n % 2 == 1)) := by
  rcases Nat.mod_two_eq_zero_or_one n with h | h <;> cases b <;> simp [Nat.add_mod, h]

/-- A bit of an accumulation is that bit of its start, turned over once for each byte that has it (R220). -/
theorem getLsbD_foldl_xor (seq : List Byte) (c : Byte) (i : Nat) :
    (seq.foldl (fun c b => c ^^^ b) c).getLsbD i =
      (c.getLsbD i ^^ ((seq.map (fun b => (b.getLsbD i).toNat)).sum % 2 == 1)) := by
  induction seq generalizing c with
  | nil => simp
  | cons b seq ih =>
    rw [List.foldl_cons, ih, BitVec.getLsbD_xor, List.map_cons, List.sum_cons, bit_add_parity, Bool.xor_assoc]

/-- The seed has every bit set (R7). -/
theorem chkSeed_getLsbD : ∀ i, i < 8 → Config.chkSeed.getLsbD i = true := by decide

/-- A bit of the checksum is 1 exactly when an even number of the bytes have it (R220). -/
theorem xorSum_getLsbD (seq : List Byte) {i : Nat} (hi : i < 8) :
    (xorSum seq).getLsbD i = !((seq.map (fun b => (b.getLsbD i).toNat)).sum % 2 == 1) := by
  rw [xorSum, getLsbD_foldl_xor, chkSeed_getLsbD i hi, Bool.true_xor]

/-- The order of the bytes does not matter: each bit of the checksum is a sum over them (R220). -/
theorem xorSum_perm {seq seq' : List Byte} (h : seq'.Perm seq) : xorSum seq' = xorSum seq := by
  refine BitVec.eq_of_getLsbD_eq fun i hi => ?_
  rw [xorSum_getLsbD seq' hi, xorSum_getLsbD seq hi, (h.map _).sum_eq]

/-- Settles O39: each bit of the checksum by parity. -/
theorem checksumIsOrderFree : Obligations.ChecksumIsOrderFree := by
  intro s seq
  refine ⟨xorSum seq, exec_chkXor seq s, fun i => xorSum_getLsbD seq, fun seq' hperm => ?_, ?_⟩
  · rw [exec_chkXor, exec_chkXor, xorSum_perm hperm]
  · rintro rfl; rfl

/-! ## CHK.RANGE and CHK.OK (R221, R222) -/

/-- CHK.RANGE returns the number of bytes the checksum covers and writes nothing else (R221). -/
theorem exec_chkRange (len : BitVec 8) (n : Nat) (s : State) :
    exec (.chkRange len n) s = .next { s with result := some (.nat (checkRange len n)) } := rfl

/-- CHK.OK returns the flag and writes nothing else (R222). -/
theorem exec_chkOk (bytes : List Byte) (len : BitVec 8) (crc : Byte) (s : State) :
    exec (.chkOk bytes len crc) s = .next { s with result := some (.bool (crcOkFlag bytes len crc)) } := rfl

/-- The covered bytes are those before the byte at `length - 1`, as far as they were received; for length 0 the natural
subtraction gives none of them (R221). -/
theorem checkRange_eq_min (len : BitVec 8) (n : Nat) : checkRange len n = min (len.toNat - 1) n := by
  unfold checkRange
  split
  next h => rw [h, Nat.zero_sub, Nat.zero_min]
  next => rfl

/-- When the byte at `length - 1` was received the flag is its compare with the checksum (R222). -/
theorem crcOkFlag_of_received {bytes : List Byte} {len : BitVec 8} {last : Byte} (crc : Byte) (hlen : 1 ≤ len.toNat)
    (hlast : bytes[len.toNat - 1]? = some last) : crcOkFlag bytes len crc = decide (crc = last) := by
  obtain ⟨hlt, -⟩ := List.getElem?_eq_some_iff.1 hlast
  have hbyte : byteAt bytes (len.toNat - 1) = last := Option.some.inj ((getElem?_eq_byteAt hlt).symm.trans hlast)
  rw [crcOkFlag, if_pos ⟨hlen, by omega⟩, hbyte]

/-- When it was not the flag is false (R222). -/
theorem crcOkFlag_of_not_received {bytes : List Byte} {len : BitVec 8} (crc : Byte)
    (h : len.toNat = 0 ∨ bytes.length < len.toNat) : crcOkFlag bytes len crc = false :=
  if_neg (by omega)

/-- The flag is set exactly when the byte at `length - 1` was received and equals the checksum (R222). -/
theorem crcOkFlag_iff {bytes : List Byte} {len : BitVec 8} {crc : Byte} :
    crcOkFlag bytes len crc = true ↔ 1 ≤ len.toNat ∧ bytes[len.toNat - 1]? = some crc := by
  constructor
  · intro hflag
    have hreceived : 1 ≤ len.toNat ∧ len.toNat ≤ bytes.length := by
      by_contra hn
      exact Bool.false_ne_true ((crcOkFlag_of_not_received crc (by omega)).symm.trans hflag)
    obtain ⟨hlen, hle⟩ := hreceived
    have hlast := getElem?_eq_byteAt (bytes := bytes) (j := len.toNat - 1) (by omega)
    rw [crcOkFlag_of_received crc hlen hlast, decide_eq_true_iff] at hflag
    exact ⟨hlen, hflag ▸ hlast⟩
  · rintro ⟨hlen, hlast⟩
    rw [crcOkFlag_of_received crc hlen hlast, decide_eq_true rfl]

/-- Settles O40: the range for length 0 and for the others, the flag with the byte received and without. -/
theorem checksumRangeAndFlag : Obligations.ChecksumRangeAndFlag := by
  intro s len
  refine ⟨fun n => ⟨?zero, ?positive⟩, fun bytes crc => ⟨?received, ?notReceived⟩⟩
  case zero =>
    rintro rfl
    rfl
  case positive =>
    intro _
    rw [exec_chkRange, checkRange_eq_min]
  case received =>
    intro hlen last hlast
    rw [exec_chkOk, crcOkFlag_of_received crc hlen hlast]
  case notReceived =>
    intro h
    rw [exec_chkOk, crcOkFlag_of_not_received crc h]

/-! ## CHK.FRAME (R224, R226) -/

/-- CHK.FRAME on at least one byte returns its pair and writes nothing else (R224). -/
theorem exec_chkFrame {frame : List Byte} (h : 1 ≤ frame.length) (s : State) :
    exec (.chkFrame frame) s =
      .next { s with result := some (.checked (checkFrame frame).1 (checkFrame frame).2) } := if_pos h

/-- The checksum of a sequence and one more byte is the sequence's, compared with that byte (R224). -/
theorem checkFrame_concat (seq : List Byte) (last : Byte) :
    checkFrame (seq ++ [last]) = (xorSum seq, decide (xorSum seq = last)) := by
  have hlast : byteAt (seq ++ [last]) ((seq ++ [last]).length - 1) = last := by
    rw [byteAt, List.length_append, List.length_singleton, Nat.add_sub_cancel, List.getD_append_right _ _ _ _ le_rfl,
      Nat.sub_self, List.getD_cons_zero]
  rw [checkFrame, List.dropLast_concat, hlast]

theorem exec_chkFrame_concat (seq : List Byte) (last : Byte) (s : State) :
    exec (.chkFrame (seq ++ [last])) s =
      .next { s with result := some (.checked (xorSum seq) (decide (xorSum seq = last))) } := by
  have hpos : 1 ≤ (seq ++ [last]).length := by rw [List.length_append, List.length_singleton]; omega
  rw [exec_chkFrame hpos, checkFrame_concat]

/-- The checksum is the seed combined with the exclusive or of the bytes alone (R220). -/
theorem xorSum_eq_seed_xor (seq : List Byte) :
    xorSum seq = Config.chkSeed ^^^ seq.foldl (fun c b => c ^^^ b) 0#8 := foldl_xor seq Config.chkSeed

/-- A sequence with its checksum at its end combines to the seed: its own checksum is 0 (R226). -/
theorem foldl_xor_append_xorSum (seq : List Byte) :
    (seq ++ [xorSum seq]).foldl (fun c b => c ^^^ b) 0#8 = Config.chkSeed := by
  have hzero : xorSum (seq ++ [xorSum seq]) = 0#8 := by rw [xorSum_append_singleton, BitVec.xor_self]
  rw [xorSum_eq_seed_xor, BitVec.xor_eq_zero_iff] at hzero
  exact hzero.symm

/-- Settles O41: CHK.FRAME of a sequence and its last byte, and the identity of R226. -/
theorem appendedChecksumPasses : Obligations.AppendedChecksumPasses := fun s seq =>
  ⟨fun last => exec_chkFrame_concat seq last s, foldl_xor_append_xorSum seq⟩

/-! ## ZW.BUILD and FX.FIELDS (R216, R217, R223) -/

/-- FX.FIELDS returns the packet's fields, or none, and writes nothing else (R216). -/
theorem exec_fxFields (pkt : List Bit) (s : State) :
    exec (.fxFields pkt) s = .next { s with result := some (.fields (fieldsOf pkt)) } := rfl

theorem fieldsOf_of_long {pkt : List Bit} (h : 88 < pkt.length) : fieldsOf pkt = some (buildFrame pkt) := if_pos h

theorem fieldsOf_of_short {pkt : List Bit} (h : pkt.length ≤ 88) : fieldsOf pkt = none := if_neg (Nat.not_lt.2 h)

/-- ZW.BUILD of a packet longer than a header returns its frame and writes nothing else (R223). -/
theorem exec_zwBuild {pkt : List Bit} (h : 88 < pkt.length) (s : State) :
    exec (.zwBuild pkt) s = .next { s with result := some (.fields (some (buildFrame pkt))) } := if_pos h

/-- Settles O36: both operations give the one frame of the packet. -/
theorem fieldsNeedMoreThanTheHeader : Obligations.FieldsNeedMoreThanTheHeader := by
  intro s pkt
  refine ⟨fun hlong => ⟨buildFrame pkt, ?_, exec_zwBuild hlong s⟩, fun hshort => ?_⟩
  · rw [exec_fxFields, fieldsOf_of_long hlong]
  · rw [exec_fxFields, fieldsOf_of_short hshort]

/-- The first `n` bytes of a sequence, one by one. -/
theorem take_eq_map_byteAt {bytes : List Byte} {n : Nat} (h : n ≤ bytes.length) :
    bytes.take n = (List.range n).map (byteAt bytes) := by
  refine List.ext_getElem? fun i => ?_
  rcases Nat.lt_or_ge i n with hi | hi
  · rw [List.getElem?_take_of_lt hi, List.getElem?_map, List.getElem?_range hi, getElem?_eq_byteAt (by omega),
      Option.map_some]
  · rw [List.getElem?_take_eq_none hi, List.getElem?_eq_none (by simpa using hi)]

/-- Eleven bytes of header and the payload (R217). -/
theorem eq_header_append_payload {bytes : List Byte} (h : 11 ≤ bytes.length) :
    bytes = [byteAt bytes 0, byteAt bytes 1, byteAt bytes 2, byteAt bytes 3, byteAt bytes 4, byteAt bytes 5,
      byteAt bytes 6, byteAt bytes 7, byteAt bytes 8, byteAt bytes 9, byteAt bytes 10] ++ bytes.drop 11 :=
  calc bytes = bytes.take 11 ++ bytes.drop 11 := (List.take_append_drop 11 bytes).symm
    _ = (List.range 11).map (byteAt bytes) ++ bytes.drop 11 := by rw [take_eq_map_byteAt h]

/-- `home_id` holds its four bytes, the first most significant (R217). -/
theorem buildFrame_homeId_toNat (pkt : List Bit) :
    (buildFrame pkt).homeId.toNat = (byteAt (packBytes pkt) 0).toNat * 2 ^ 24 +
      (byteAt (packBytes pkt) 1).toNat * 2 ^ 16 + (byteAt (packBytes pkt) 2).toNat * 2 ^ 8 +
      (byteAt (packBytes pkt) 3).toNat := by
  rw [buildFrame, BitVec.toNat_ofNat]
  exact Nat.mod_eq_of_lt (by omega)

/-- `frame_control` holds its two bytes, the first most significant (R217). -/
theorem buildFrame_frameControl_toNat (pkt : List Bit) :
    (buildFrame pkt).frameControl.toNat =
      (byteAt (packBytes pkt) 5).toNat * 256 + (byteAt (packBytes pkt) 6).toNat := by
  rw [buildFrame, BitVec.toNat_ofNat]
  exact Nat.mod_eq_of_lt (by omega)

/-- The checksum of a frame covers the bytes before the one at `length - 1`, as far as received (R221, R223). -/
theorem buildFrame_crc (pkt : List Bit) :
    (buildFrame pkt).crc =
      xorSum ((packBytes pkt).take (min ((buildFrame pkt).length.toNat - 1) (packBytes pkt).length)) := by
  rw [← checkRange_eq_min]; rfl

/-- A frame's flag is CHK.OK of its bytes, length and checksum (R222, R223). -/
theorem buildFrame_crcOk (pkt : List Bit) :
    (buildFrame pkt).crcOk = crcOkFlag (packBytes pkt) (buildFrame pkt).length (buildFrame pkt).crc := rfl

/-- Settles O37: the packet has its eleven header bytes, and each field is built of its own. -/
theorem frameBuiltFromBytes : Obligations.FrameBuiltFromBytes := by
  intro s pkt hlong bytes
  have hheader : 11 ≤ bytes.length := by rw [packBytes_length]; omega
  exact ⟨_, _, _, _, _, _, _, _, _, _, _, _, buildFrame pkt, eq_header_append_payload hheader, exec_zwBuild hlong s,
    buildFrame_homeId_toNat pkt, rfl, buildFrame_frameControl_toNat pkt, rfl, rfl, rfl, rfl, rfl, buildFrame_crc pkt,
    buildFrame_crcOk pkt ▸ crcOkFlag_iff⟩

/-- Settles O42: of the first `length` bytes the last is the one `crc_ok` compares, and those before it are the range
the checksum covers. -/
theorem frameChecksumIsOfItsFirstLengthBytes : Obligations.FrameChecksumIsOfItsFirstLengthBytes := by
  intro s pkt _ hpos hle
  have hlast := getElem?_eq_byteAt (bytes := packBytes pkt) (j := (buildFrame pkt).length.toNat - 1) (by omega)
  have hcovered : min ((buildFrame pkt).length.toNat - 1) (packBytes pkt).length = (buildFrame pkt).length.toNat - 1 :=
    Nat.min_eq_left (by omega)
  have htake : (packBytes pkt).take (buildFrame pkt).length.toNat =
      (packBytes pkt).take ((buildFrame pkt).length.toNat - 1) ++
        [byteAt (packBytes pkt) ((buildFrame pkt).length.toNat - 1)] := by
    conv_lhs => rw [← Nat.sub_add_cancel hpos, List.take_add_one, hlast, Option.toList_some]
  rw [htake, exec_chkFrame_concat, buildFrame_crcOk, crcOkFlag_of_received _ hpos hlast, buildFrame_crc, hcovered]

/-! ## A failing checksum is only reported (R225, R279) -/

/-- Lane M's conditions with an emitted frame: those recorded, and ChecksumMismatch where the frame's flag is 0
(R279). -/
theorem conditionsM_of_emitted {s : State} {f : ZWaveFrame} (h : s.out.zwave = some f) :
    s.conditionsM = s.condsM ++ (if f.crcOk then [] else [.checksumMismatch f.crc]) := by
  rw [State.conditionsM, h]

/-- Settles O59: the capture of a packet longer than a header is one record update, whatever the frame's flag is. -/
theorem mismatchIsReportedNotRejected : Obligations.MismatchIsReportedNotRejected := by
  refine ⟨?chip, ?capture⟩
  case chip =>
    intro s b w hh hs hw hl hsfd hlong
    have hstep := exec_mzSym_capture hh hs hw hl hsfd
    rw [captureWindow_of_long _ rfl rfl hlong] at hstep
    exact ⟨_, _, hstep, rfl, rfl, conditionsM_of_emitted rfl⟩
  case capture =>
    intro s hl _ hlong
    have hcapture := exec_frameCapture hl.ge
    rw [List.take_of_length_le hl.le, captureWindow_of_long s rfl rfl hlong] at hcapture
    exact ⟨_, _, hcapture, rfl, rfl, conditionsM_of_emitted rfl, rfl⟩

end Machine

end Sys2Proof

/-! PROOFS. The statements of 45_frame_emitter.md: what the emissions write (R245, R246, R249), and what the ports show
of an output (R104, R306). A port is a function of the one output it belongs to (log entry 21), so it is known once
that output is; of the two counts it must also be known that they fit their 7 bits (log entry 6). -/

namespace Sys2Proof

namespace Machine

/-! ## The emissions (R245, R246, R249) -/

/-- EMIT.DB writes the doorbell output and nothing else (R245). -/
theorem exec_emitDb (f : DoorbellFrame) (s : State) :
    exec (.emitDb f) s = .next { s with out := { s.out with doorbell := some f } } := rfl

/-- EMIT.ZW writes the Z-Wave output and nothing else, whatever the frame's flag is (R246). -/
theorem exec_emitZw (f : ZWaveFrame) (s : State) :
    exec (.emitZw f) s = .next { s with out := { s.out with zwave := some f } } := rfl

/-- EMIT.FAIL writes the failure notice and nothing else (R249). -/
theorem exec_emitFail (n : Nat) (s : State) :
    exec (.emitFail n) s = .next { s with out := { s.out with fail := some n } } := rfl

/-! ## The ports of an output (R104) -/

/-- The ports of a count: of an output that is present, with a count below 128, the 7 bits hold the whole count. -/
theorem countPort_toNat {α : Type} {out : Option α} {a : α} (count : α → Nat) (hout : out = some a)
    (hlt : count a < 128) : (out.map fun a => BitVec.ofNat 7 (count a)).map BitVec.toNat = some (count a) :=
  calc (out.map fun a => BitVec.ofNat 7 (count a)).map BitVec.toNat
    _ = some (BitVec.ofNat 7 (count a)).toNat := by rw [hout, Option.map_some, Option.map_some]
    _ = some (count a) := by rw [BitVec.toNat_ofNat, Nat.mod_eq_of_lt hlt]

/-- `zw_payload_len` is the length of a payload of 93 bytes or fewer (R104). -/
theorem portZwPayloadLen_toNat {o : Outputs} {f : ZWaveFrame} (hf : o.zwave = some f) (hmax : f.payload.length ≤ 93) :
    (portZwPayloadLen o).map BitVec.toNat = some f.payload.length :=
  countPort_toNat (fun f : ZWaveFrame => f.payload.length) hf (by omega)

/-- `zw_fail_bits` is the number of a failure notice of 88 bits or fewer (R104). -/
theorem portZwFailBits_toNat {o : Outputs} {n : Nat} (hn : o.fail = some n) (hmax : n ≤ 88) :
    (portZwFailBits o).map BitVec.toNat = some n :=
  countPort_toNat (fun n => n) hn (by omega)

/-- Settles O43: each emission is one record update, and each port is read off the output it belongs to; a valid port is
that output's presence. -/
theorem emissionsReachTheOutputs : Obligations.EmissionsReachTheOutputs := by
  refine ⟨fun s => ⟨fun f => exec_emitDb f s, fun f => exec_emitZw f s, fun n => exec_emitFail n s⟩,
    fun o => ⟨?doorbell, ?zwave, ?fail, ?absent⟩⟩
  case doorbell =>
    intro f hf
    exact ⟨congrArg Option.isSome hf, congrArg (Option.map DoorbellFrame.buttonId) hf,
      congrArg (Option.map DoorbellFrame.tone) hf⟩
  case zwave =>
    intro f hf hmax
    have hfield {α : Type} (field : ZWaveFrame → α) : o.zwave.map field = some (field f) :=
      congrArg (Option.map field) hf
    have hpayload (i : Nat) : portZwPayload o i = f.payload[i]? := by rw [portZwPayload, hf, Option.bind_some]
    exact ⟨congrArg Option.isSome hf, portZwPayloadLen_toNat hf hmax, fun i _ => hpayload i, hfield _, hfield _,
      hfield _, hfield _, hfield _, hfield _, hfield _, hfield _, hfield _⟩
  case fail =>
    intro n hn hmax
    exact ⟨congrArg Option.isSome hn, portZwFailBits_toNat hn hmax⟩
  case absent => exact ⟨congrArg Option.isSome, congrArg Option.isSome, congrArg Option.isSome⟩

end Machine

end Sys2Proof

/-! PROOFS. The statements of 46_system_operations.md: what a step makes of its word (R90, R260), RST (R261), CANCEL
(R262), IDLE (R263), a halted block (R266), that every step completes (R260), and BATCH as its single-symbol steps (R264).
What a step does is said once by the bits of its word: a reset, a cancel, or the two lanes' slots one after the other. -/

namespace Sys2Proof

namespace Machine

/-! ## What a step makes of its word (R90, R260) -/

/-- With no word left to present nothing is taken, and the record is cleared. -/
theorem takeWord_nil {s : State} (h : s.inputs = []) :
    takeWord s = { s with out := ⟨none, none, none⟩, condsP := [], condsM := [], result := none } := by
  simp only [takeWord, beginStep, h, List.tail_nil]; rfl

/-- With no word left to present a step is IDLE (R263, R280; log entry 1). -/
theorem step_nil {s : State} (h : s.inputs = []) : step s = exec .idle (takeWord s) := by
  have hword : presentedWord s = idleWord := by rw [presentedWord, h, List.headD_nil]
  have hidle : decodeInputWord idleWord = [.idle] := by decide
  rw [step, hword, hidle, runAll_single]

/-- A word that selects one operation makes a step of that operation. -/
theorem step_single {s : State} {iw : BitVec 6} {ws : List (BitVec 6)} {i : Instr} (h : s.inputs = iw :: ws)
    (hd : decodeInputWord iw = [i]) : step s = exec i (takeWord s) := by
  rw [step_cons h, hd, runAll_single]

/-- A word that selects two operations makes a step of the one and then the other. -/
theorem step_pair {s : State} {iw : BitVec 6} {ws : List (BitVec 6)} {i j : Instr} (h : s.inputs = iw :: ws)
    (hd : decodeInputWord iw = [i, j]) : step s = andThen (exec i (takeWord s)) (exec j) := by
  rw [step_cons h, hd, runAll_pair]

/-- Settles O1. -/
theorem stepRunsThePresentedWord : Obligations.StepRunsThePresentedWord := by
  intro s
  refine ⟨fun h => ?noWord, fun iw ws h => ⟨fun i hd => ?one, fun i j hd => ?two⟩⟩
  case noWord => rw [step_nil h, takeWord_nil h]
  case one => rw [step_single h hd, takeWord_cons h]
  case two => rw [step_pair h hd, takeWord_cons h]

/-- The reset bit makes a step RST, whatever the other bits are. -/
theorem step_of_reset_bit {s : State} {iw : BitVec 6} {ws : List (BitVec 6)} (h : s.inputs = iw :: ws)
    (h5 : iw.getLsbD 5 = true) : step s = exec .rst (takeWord s) := by
  obtain ⟨hrst, -⟩ := inputWordSelectsOperations iw
  exact step_single h (hrst h5)

/-- The cancel bit without the reset bit makes a step CANCEL, whatever the symbols are. -/
theorem step_of_cancel_bit {s : State} {iw : BitVec 6} {ws : List (BitVec 6)} (h : s.inputs = iw :: ws)
    (h5 : iw.getLsbD 5 = false) (h4 : iw.getLsbD 4 = true) : step s = exec .cancel (takeWord s) := by
  obtain ⟨-, hcancel, -⟩ := inputWordSelectsOperations iw
  exact step_single h (hcancel h5 h4)

/-- Lane P's slot of a word: its symbol when its valid bit is set, else nothing (R90, R263). -/
def slotP (iw : BitVec 6) (s : State) : Host.Outcome State Fault Refusal :=
  if iw.getLsbD 1 then exec (.pwSym (iw.getLsbD 0)) s else .next s

/-- Lane M's slot of a word: its symbol when its valid bit is set, else nothing (R90, R263). -/
def slotM (iw : BitVec 6) (s : State) : Host.Outcome State Fault Refusal :=
  if iw.getLsbD 3 then exec (.mzSym (iw.getLsbD 2)) s else .next s

theorem slotP_of_valid {iw : BitVec 6} (h : iw.getLsbD 1 = true) (s : State) :
    slotP iw s = exec (.pwSym (iw.getLsbD 0)) s := if_pos h

theorem slotP_of_not_valid {iw : BitVec 6} (h : iw.getLsbD 1 = false) (s : State) : slotP iw s = .next s :=
  if_neg (Bool.eq_false_iff.1 h)

theorem slotM_of_valid {iw : BitVec 6} (h : iw.getLsbD 3 = true) (s : State) :
    slotM iw s = exec (.mzSym (iw.getLsbD 2)) s := if_pos h

theorem slotM_of_not_valid {iw : BitVec 6} (h : iw.getLsbD 3 = false) (s : State) : slotM iw s = .next s :=
  if_neg (Bool.eq_false_iff.1 h)

/-- Without a request a step is lane P's slot and then lane M's; with both empty that is IDLE (R260, R263). -/
theorem step_of_slots {s : State} {iw : BitVec 6} {ws : List (BitVec 6)} (h : s.inputs = iw :: ws)
    (h5 : iw.getLsbD 5 = false) (h4 : iw.getLsbD 4 = false) :
    step s = andThen (slotP iw (takeWord s)) (slotM iw) := by
  obtain ⟨-, -, hslots, -⟩ := inputWordSelectsOperations iw
  obtain ⟨hidle, hpw, hmz, hboth⟩ := hslots h5 h4
  cases h3 : iw.getLsbD 3 with
  | false =>
    cases h1 : iw.getLsbD 1 with
    | false => rw [step_single h (hidle h3 h1), slotP_of_not_valid h1, andThen_next, slotM_of_not_valid h3]; rfl
    | true =>
      rw [step_single h (hpw h3 h1), slotP_of_valid h1, funext (slotM_of_not_valid h3)]
      cases exec (.pwSym (iw.getLsbD 0)) (takeWord s) <;> rfl
  | true =>
    cases h1 : iw.getLsbD 1 with
    | false => rw [step_single h (hmz h3 h1), slotP_of_not_valid h1, andThen_next, slotM_of_valid h3]
    | true => rw [step_pair h (hboth h3 h1), slotP_of_valid h1, funext (slotM_of_valid h3)]

/-! ## RST and CANCEL (R261, R262) -/

theorem exec_rst (s : State) : exec .rst s = .next (resetElements s) := rfl

theorem exec_cancel (s : State) : exec .cancel s = .next { s with halted := true } := rfl

/-- Settles O44: `resetElements`, field by field. -/
theorem resetRestoresEveryElement : Obligations.ResetRestoresEveryElement := fun s =>
  ⟨resetElements s, exec_rst s, rfl, rfl, rfl, rfl, rfl, rfl, rfl, rfl, rfl, rfl, rfl, rfl, rfl, rfl⟩

/-- Settles O48. -/
theorem resetWordAlwaysResets : Obligations.ResetWordAlwaysResets := by
  intro s iw ws h h5
  rw [step_of_reset_bit h h5, takeWord_cons h, exec_rst, resetElements]

/-- Settles O45. -/
theorem cancelSetsHaltedOnly : Obligations.CancelSetsHaltedOnly := by
  refine fun s => ⟨exec_cancel s, fun iw ws h h5 h4 => ?_⟩
  rw [step_of_cancel_bit h h5 h4, takeWord_cons h, exec_cancel]

/-! ## IDLE and the idle lane (R263) -/

theorem exec_idle (s : State) : exec .idle s = .next s := rfl

theorem State.SameButLaneP.refl (s : State) : s.SameButLaneP s :=
  ⟨⟨rfl, rfl, rfl⟩, ⟨rfl, rfl, rfl, rfl⟩, rfl, rfl, rfl⟩

theorem State.SameButLaneM.refl (s : State) : s.SameButLaneM s :=
  ⟨⟨rfl, rfl, rfl, rfl⟩, ⟨rfl, rfl, rfl, rfl⟩, rfl, rfl⟩

/-- Lane P's slot, valid or not, leaves lane M as it was (R29). -/
theorem slotP_sameButLaneP {iw : BitVec 6} {s t : State} (h : slotP iw s = .next t) : s.SameButLaneP t := by
  cases h1 : iw.getLsbD 1 with
  | true => rw [slotP_of_valid h1] at h; exact pwSym_sameButLaneP h
  | false => rw [slotP_of_not_valid h1] at h; cases h; exact .refl s

/-- Lane M's slot, valid or not, leaves lane P as it was (R29). -/
theorem slotM_sameButLaneM {iw : BitVec 6} {s t : State} (h : slotM iw s = .next t) : s.SameButLaneM t := by
  cases h3 : iw.getLsbD 3 with
  | true => rw [slotM_of_valid h3] at h; exact mzSym_sameButLaneM h
  | false => rw [slotM_of_not_valid h3] at h; cases h; exact .refl s

/-- Settles O46: a slot that is not valid does nothing, and the other lane's slot leaves this lane as it was. -/
theorem idleChangesNothing : Obligations.IdleChangesNothing := by
  refine fun s => ⟨exec_idle s, fun iw ws h h5 h4 => ⟨fun h3 h1 => ?idleWord, fun t ht => ?idleLane⟩⟩
  case idleWord =>
    rw [step_of_slots h h5 h4, slotP_of_not_valid h1, andThen_next, slotM_of_not_valid h3, takeWord_cons h]
  case idleLane =>
    rw [step_of_slots h h5 h4, andThen_eq_next] at ht
    obtain ⟨u, hP, hM⟩ := ht
    refine ⟨fun h1 => ?laneP, fun h3 => ?laneM⟩
    case laneP =>
      have hframe := slotM_sameButLaneM hM
      cases (slotP_of_not_valid h1 _).symm.trans hP
      exact ⟨hframe.level, hframe.transition, hframe.index, hframe.acc, hframe.doorbell⟩
    case laneM =>
      have hframe := slotP_sameButLaneP hP
      cases (slotM_of_not_valid h3 _).symm.trans hM
      exact ⟨hframe.buf, hframe.syncState, hframe.sfdAttempts, hframe.zwave, hframe.fail⟩

/-! ## A halted block (R266) -/

theorem exec_cancel_of_halted {s : State} (h : s.halted = true) : exec .cancel s = .next s := by
  rw [exec_cancel, ← h]

theorem slotP_of_halted {s : State} (iw : BitVec 6) (h : s.halted = true) : slotP iw s = .next s := by
  rw [slotP, exec_pwSym, unlessHalted_true h, ite_self]

theorem slotM_of_halted {s : State} (iw : BitVec 6) (h : s.halted = true) : slotM iw s = .next s := by
  rw [slotM, exec_mzSym_of_halted _ h, ite_self]

/-- Settles O47: a cancel finds `halted` set already, and neither slot accepts its symbol. -/
theorem haltedStepsChangeNothing : Obligations.HaltedStepsChangeNothing := by
  intro s iw ws hh h h5
  have hhalted : (takeWord s).halted = true := hh
  rw [← takeWord_cons h]
  cases h4 : iw.getLsbD 4 with
  | true => rw [step_of_cancel_bit h h5 h4, exec_cancel_of_halted hhalted]
  | false => rw [step_of_slots h h5 h4, slotP_of_halted iw hhalted, andThen_next, slotM_of_halted iw hhalted]

/-! ## Every step completes (R8, R260) -/

/-- MZ.SYM completes from every state: the compare is made on a full buffer only, which holds every window it reads. -/
theorem mzSym_completes (b : Bit) (s : State) : ∃ t, exec (.mzSym b) s = .next t := by
  cases hh : s.halted with
  | true => exact ⟨s, exec_mzSym_of_halted b hh⟩
  | false =>
    rw [exec_mzSym, unlessHalted_false hh, acceptChip]
    split
    next hl =>
      obtain ⟨t, ht, -⟩ := syncCompare_cases hl
      exact ⟨t, ht⟩
    next => exact ⟨_, rfl⟩

/-- Settles O52. -/
theorem symbolOperationsComplete : Obligations.SymbolOperationsComplete :=
  fun s b => ⟨pwSym_completes b s, mzSym_completes b s⟩

/-- Settles O53: each operation that a word selects completes. -/
theorem stepIsTotal : Obligations.StepIsTotal := by
  intro s
  unfold step
  rcases decodeInputWord_shapes (presentedWord s) with hd | hd | hd | ⟨b, hd⟩ | ⟨c, hd⟩ | ⟨b, c, hd⟩ <;> rw [hd]
  · exact ⟨_, rfl⟩ -- RST
  · exact ⟨_, rfl⟩ -- CANCEL
  · exact ⟨_, rfl⟩ -- IDLE
  · rw [runAll_single]; exact pwSym_completes b _
  · rw [runAll_single]; exact mzSym_completes c _
  · obtain ⟨u, hu⟩ := pwSym_completes b (takeWord s)
    rw [runAll_pair, hu, andThen_next]
    exact mzSym_completes c u

/-! ## The symbol operations and the words to come

BATCH runs its single steps beside the words to come, and a run of steps takes its words off them, so the two agree only
because no symbol operation reads or writes them. -/

/-- `s` with other words to come. -/
def State.withWords (s : State) (ws : List (BitVec 6)) : State := { s with inputs := ws }

/-- An operation that neither reads nor writes the words to come: before other words it does the same, stops included. -/
def BlindToWords (op : State → Host.Outcome State Fault Refusal) : Prop :=
  ∀ s ws, op (s.withWords ws) = andThen (op s) (fun t => .next (t.withWords ws))

/-- What follows a window's reading can be done within it. -/
theorem andThen_withWindow (n : Nat) (s : State) (k : List Bit → Host.Outcome State Fault Refusal)
    (j : State → Host.Outcome State Fault Refusal) :
    andThen (withWindow n s k) j = withWindow n s (fun w => andThen (k w) j) := by
  unfold withWindow
  split <;> rfl

/-- The leading window is none of the words to come. -/
theorem withWindow_blindToWords {n : Nat} {k : State → List Bit → Host.Outcome State Fault Refusal}
    (h : ∀ w, BlindToWords (fun s => k s w)) : BlindToWords (fun s => withWindow n s (k s)) := fun s ws =>
  calc withWindow n (s.withWords ws) (k (s.withWords ws))
    _ = withWindow n s (fun w => andThen (k s w) (fun t => .next (t.withWords ws))) :=
      congrArg (withWindow n s) (funext fun w => h w s ws)
    _ = andThen (withWindow n s (k s)) (fun t => .next (t.withWords ws)) := (andThen_withWindow n s _ _).symm

/-- A guard that does not depend on the words to come chooses between two operations blind to them. -/
theorem ite_blindToWords {c : State → Prop} [∀ s, Decidable (c s)] {op op' : State → Host.Outcome State Fault Refusal}
    (hc : ∀ s ws, c (s.withWords ws) ↔ c s) (h : BlindToWords op) (h' : BlindToWords op') :
    BlindToWords (fun s => if c s then op s else op' s) := by
  intro s ws
  by_cases hs : c s
  · simp only [if_pos hs, if_pos ((hc s ws).2 hs), h s ws]
  · simp only [if_neg hs, if_neg (mt (hc s ws).1 hs), h' s ws]

/-- Two operations blind to the words to come, one after the other. -/
theorem andThen_blindToWords {op op' : State → Host.Outcome State Fault Refusal} (h : BlindToWords op)
    (h' : BlindToWords op') : BlindToWords (fun s => andThen (op s) op') := by
  intro s ws
  dsimp only
  rw [h s ws]
  cases op s with
  | next t => exact h' t ws
  | fault f => rfl
  | refused r => rfl

/-- An update that leaves the words to come alone. -/
theorem next_blindToWords {f : State → State} (h : ∀ s ws, f (s.withWords ws) = (f s).withWords ws) :
    BlindToWords (fun s => .next (f s)) := fun s ws => congrArg _ (h s ws)

theorem searchPreamble_blindToWords : BlindToWords searchPreamble :=
  withWindow_blindToWords fun _ =>
    ite_blindToWords (fun _ _ => Iff.rfl) (next_blindToWords fun _ _ => rfl) (next_blindToWords fun _ _ => rfl)

theorem captureFrame_blindToWords : BlindToWords captureFrame :=
  withWindow_blindToWords fun w => next_blindToWords fun s ws => by rw [captureWindow_eq rfl, captureWindow_eq rfl]; rfl

theorem searchDelimiter_blindToWords : BlindToWords searchDelimiter :=
  withWindow_blindToWords fun _ => ite_blindToWords (fun _ _ => Iff.rfl)
    (andThen_blindToWords captureFrame_blindToWords (next_blindToWords fun _ _ => rfl))
    (next_blindToWords fun s ws => by rw [missDelimiter_eq, missDelimiter_eq]; rfl)

theorem syncCompare_blindToWords : BlindToWords syncCompare := by
  intro s ws
  have hsync : (s.withWords ws).syncState = s.syncState := rfl
  rw [syncCompare, syncCompare, hsync]
  cases s.syncState with
  | searchingPreamble => exact searchPreamble_blindToWords s ws
  | searchingDelimiter => exact searchDelimiter_blindToWords s ws

theorem pushSymbol_words (b : Bit) (s : State) (ws : List (BitVec 6)) :
    pushSymbol b (s.withWords ws) = (pushSymbol b s).withWords ws := by
  rw [pushSymbol_eq, pushSymbol_eq]; rfl

theorem acceptChip_blindToWords (b : Bit) : BlindToWords (acceptChip b) := by
  have hpush : BlindToWords (fun s => .next (pushSymbol b s)) := next_blindToWords (pushSymbol_words b)
  refine ite_blindToWords (fun s ws => ?_) (andThen_blindToWords hpush syncCompare_blindToWords) hpush
  rw [pushSymbol_words]; rfl

theorem acceptLevel_words (level : Bit) (s : State) (ws : List (BitVec 6)) :
    acceptLevel level (s.withWords ws) = (acceptLevel level s).withWords ws := by
  by_cases h : level = s.pwLastLevel
  · have h' : level = (s.withWords ws).pwLastLevel := h
    rw [acceptLevel_hold h, acceptLevel_hold h']
    rfl
  · have h' : level ≠ (s.withWords ws).pwLastLevel := h
    rw [acceptLevel_edge h rfl rfl, acceptLevel_edge h' rfl rfl]
    rfl

/-- Testing `halted` reads none of the words to come. -/
theorem unlessHalted_blindToWords {op : State → Host.Outcome State Fault Refusal} (h : BlindToWords op) :
    BlindToWords (fun s => unlessHalted s op) :=
  ite_blindToWords (fun _ _ => Iff.rfl) (next_blindToWords fun _ _ => rfl) h

theorem pwSym_blindToWords (b : Bit) : BlindToWords (exec (.pwSym b)) :=
  unlessHalted_blindToWords (next_blindToWords (acceptLevel_words b))

theorem mzSym_blindToWords (b : Bit) : BlindToWords (exec (.mzSym b)) :=
  unlessHalted_blindToWords (acceptChip_blindToWords b)

/-! ## BATCH (R264) -/

/-- A single-symbol step of a batch completes. -/
theorem deliverStep_completes (lane : Lane) (b : Bit) (s : State) : ∃ t, deliverStep lane b s = .next t := by
  cases lane with
  | p => exact pwSym_completes b (beginStep s)
  | m => exact mzSym_completes b (beginStep s)

/-- The step of a symbol's word is the batch's single-symbol step of it, but for the words to come (R106, R264). -/
theorem step_laneWord {lane : Lane} {b : Bit} {s t : State} (h : deliverStep lane b s = .next t)
    (ws : List (BitVec 6)) : step { s with inputs := laneWord lane b :: ws } = .next { t with inputs := ws } := by
  rw [step_single rfl (decodeInputWord_laneWord lane b)]
  cases lane with
  | p => exact (pwSym_blindToWords b (beginStep s) ws).trans (andThen_eq_next.2 ⟨t, h, rfl⟩)
  | m => exact (mzSym_blindToWords b (beginStep s) ws).trans (andThen_eq_next.2 ⟨t, h, rfl⟩)

/-- The single-symbol steps of a batch: the symbols lead from the first state to the last, with these outputs. -/
inductive Delivers (lane : Lane) : List Bit → State → List Outputs → State → Prop where
  | nil (s : State) : Delivers lane [] s [] s
  | cons {b : Bit} {symbols : List Bit} {s s1 t : State} {outs : List Outputs} (hstep : deliverStep lane b s = .next s1)
      (hrest : Delivers lane symbols s1 outs t) : Delivers lane (b :: symbols) s (s1.out :: outs) t

/-- Every sequence of symbols is delivered from every state. -/
theorem exists_delivers (lane : Lane) (symbols : List Bit) (s : State) :
    ∃ outs t, Delivers lane symbols s outs t := by
  induction symbols generalizing s with
  | nil => exact ⟨[], s, .nil s⟩
  | cons b symbols ih =>
    obtain ⟨s1, h1⟩ := deliverStep_completes lane b s
    obtain ⟨outs, t, hrest⟩ := ih s1
    exact ⟨s1.out :: outs, t, .cons h1 hrest⟩

/-- A batch consumes all its symbols, with one output each. -/
theorem Delivers.length_outs {lane : Lane} {symbols : List Bit} {s t : State} {outs : List Outputs}
    (h : Delivers lane symbols s outs t) : outs.length = symbols.length := by
  induction h with
  | nil => rfl
  | cons _ _ ih => rw [List.length_cons, List.length_cons, ih]

/-- The model's loop is these steps, and returns the outputs it had collected and theirs. -/
theorem Delivers.deliverAll_eq {lane : Lane} {symbols : List Bit} {s t : State} {outs : List Outputs}
    (h : Delivers lane symbols s outs t) (acc : List Outputs) :
    deliverAll lane symbols acc s = .next (t.returning (.batch (acc ++ outs) (acc ++ outs).length)) := by
  induction h generalizing acc with
  | nil => rw [deliverAll, List.append_nil]
  | cons hstep _ ih => rw [deliverAll, hstep, andThen_next, ih, List.append_assoc, List.singleton_append]

/-- Among the symbols' words alone, each of the batch's steps is the run's step of that number: its output is the one
collected there, and after the last the run is in the batch's final state with no word left. -/
theorem Delivers.run_eq {lane : Lane} {symbols : List Bit} {s t : State} {outs : List Outputs}
    (h : Delivers lane symbols s outs t) (k : Nat) (hk : k ≤ symbols.length) :
    ∃ u, Host.Core.run core k { s with inputs := symbols.map (laneWord lane) } = .next u ∧
      (∀ j, k = j + 1 → outs[j]? = some u.out) ∧ (k = symbols.length → { t with inputs := [] } = u) := by
  induction h generalizing k with
  | nil s =>
    cases Nat.le_zero.1 hk
    exact ⟨{ s with inputs := [] }, rfl, nofun, fun _ => rfl⟩
  | @cons b symbols s s1 t outs hdeliver _ ih =>
    cases k with
    | zero => exact ⟨_, rfl, nofun, nofun⟩
    | succ k =>
      obtain ⟨u, hrun, hout, hlast⟩ := ih k (Nat.le_of_succ_le_succ hk)
      have hstep := step_laneWord hdeliver (symbols.map (laneWord lane))
      refine ⟨u, (run_succ_of_step hstep k).trans hrun, ?output, fun hall => hlast (Nat.succ.inj hall)⟩
      case output =>
        rintro j ⟨⟩
        cases k with
        | zero => cases hrun; rfl
        | succ k => exact hout k rfl

/-- Settles O49: the batch's single steps are the run's, one by one. -/
theorem batchIsItsSingleSteps : Obligations.BatchIsItsSingleSteps := by
  intro s lane symbols
  obtain ⟨outs, t, h⟩ := exists_delivers lane symbols s
  refine ⟨t, outs, ?batch, h.length_outs, fun k hk => ?steps⟩
  case batch => rw [← h.length_outs]; exact h.deliverAll_eq []
  case steps =>
    obtain ⟨u, hrun, hout, hlast⟩ := h.run_eq k hk
    exact ⟨u, hrun, hout, fun hall => by rw [← hlast hall]⟩

end Machine

end Sys2Proof

/-! PROOFS. The statement of 70_reset_and_hazards.md about the index origin (R309, 93_implementation_defined.md U3):
states that differ in the stream indices only stay such states. Lane M and the system operations do not read the indices;
lane P reads them as the elapsed samples of an edge, and those matter only where the two states agree on them. -/

namespace Sys2Proof

namespace Machine

/-! ## Operations that keep two states the same but for the indices -/

/-- From two states that differ in the stream indices only, the operation goes on to two such states. -/
def KeepsSameButIndices (op : State → Host.Outcome State Fault Refusal) : Prop :=
  ∀ s t s' : State, s.SameButIndices t → op s = .next s' → ∃ t', op t = .next t' ∧ s'.SameButIndices t'

theorem next_keepsSameButIndices {f : State → State}
    (h : ∀ s t, s.SameButIndices t → (f s).SameButIndices (f t)) : KeepsSameButIndices (fun s => .next (f s)) := by
  rintro s t _ hst ⟨⟩
  exact ⟨f t, rfl, h s t hst⟩

theorem andThen_keepsSameButIndices {op op' : State → Host.Outcome State Fault Refusal} (h : KeepsSameButIndices op)
    (h' : KeepsSameButIndices op') : KeepsSameButIndices (fun s => andThen (op s) op') := by
  intro s t s' hst hs
  obtain ⟨u, hu, hs'⟩ := andThen_eq_next.1 hs
  obtain ⟨v, hv, huv⟩ := h s t u hst hu
  obtain ⟨t', ht', hst'⟩ := h' u v s' huv hs'
  exact ⟨t', andThen_eq_next.2 ⟨v, hv, ht'⟩, hst'⟩

/-- A guard that two such states answer alike chooses between two operations. -/
theorem ite_keepsSameButIndices {c : State → Prop} [∀ s, Decidable (c s)]
    {op op' : State → Host.Outcome State Fault Refusal} (hc : ∀ s t, s.SameButIndices t → (c t ↔ c s))
    (h : KeepsSameButIndices op) (h' : KeepsSameButIndices op') :
    KeepsSameButIndices (fun s => if c s then op s else op' s) := by
  intro s t s' hst
  dsimp only
  by_cases hs : c s
  · rw [if_pos hs, if_pos ((hc s t hst).2 hs)]; exact h s t s' hst
  · rw [if_neg hs, if_neg (mt (hc s t hst).1 hs)]; exact h' s t s' hst

/-- Two such states have the same leading window. -/
theorem withWindow_keepsSameButIndices {n : Nat} {k : State → List Bit → Host.Outcome State Fault Refusal}
    (h : ∀ w, KeepsSameButIndices (fun s => k s w)) : KeepsSameButIndices (fun s => withWindow n s (k s)) := by
  intro s t s' hst hs
  dsimp only at hs ⊢
  rcases Nat.lt_or_ge s.buf.length n with hn | hn
  · rw [withWindow_fault hn] at hs; cases hs
  · rw [withWindow_ok hn] at hs
    rw [withWindow_ok (hst.buf ▸ hn), hst.buf]
    exact h _ s t s' hst hs

theorem unlessHalted_keepsSameButIndices {op : State → Host.Outcome State Fault Refusal}
    (h : KeepsSameButIndices op) : KeepsSameButIndices (fun s => unlessHalted s op) :=
  ite_keepsSameButIndices (fun _ _ hst => by rw [hst.halted]) (next_keepsSameButIndices fun _ _ hst => hst) h

/-! ## Lane M -/

theorem State.SameButIndices.pushSymbol {s t : State} (h : s.SameButIndices t) (b : Bit) :
    (pushSymbol b s).SameButIndices (pushSymbol b t) := by
  rw [pushSymbol_eq, pushSymbol_eq]
  exact { h with buf := by rw [h.buf] }

theorem State.SameButIndices.enterSync {s t : State} (h : s.SameButIndices t) (st : SyncState) :
    (enterSync st s).SameButIndices (enterSync st t) :=
  { h with syncState := rfl, sfdAttempts := rfl }

theorem State.SameButIndices.evictHead_raise {s t : State} (h : s.SameButIndices t) (p : Pattern) :
    (evictHead (raise (.patternMiss p) s)).SameButIndices (evictHead (raise (.patternMiss p) t)) :=
  { h with buf := congrArg (memDropHead · 1) h.buf }

theorem State.SameButIndices.captureWindow {s t : State} (h : s.SameButIndices t) (w : List Bit) :
    (captureWindow w s).SameButIndices (captureWindow w t) := by
  rw [captureWindow_eq rfl, captureWindow_eq rfl]
  exact { h with buf := by rw [h.buf], out := by rw [h.out] }

theorem State.SameButIndices.missDelimiter {s t : State} (h : s.SameButIndices t) :
    (missDelimiter s).SameButIndices (missDelimiter t) := by
  rw [missDelimiter_eq, missDelimiter_eq]
  exact { h with
    buf := by rw [h.buf]
    syncState := by rw [h.limit, h.sfdAttempts, h.syncState]
    sfdAttempts := by rw [h.limit, h.sfdAttempts] }

theorem searchPreamble_keepsSameButIndices : KeepsSameButIndices searchPreamble :=
  withWindow_keepsSameButIndices fun _ => ite_keepsSameButIndices (fun _ _ _ => Iff.rfl)
    (next_keepsSameButIndices fun _ _ h => h.enterSync _) (next_keepsSameButIndices fun _ _ h => h.evictHead_raise _)

theorem captureFrame_keepsSameButIndices : KeepsSameButIndices captureFrame :=
  withWindow_keepsSameButIndices fun w => next_keepsSameButIndices fun _ _ h => h.captureWindow w

theorem searchDelimiter_keepsSameButIndices : KeepsSameButIndices searchDelimiter :=
  withWindow_keepsSameButIndices fun _ => ite_keepsSameButIndices (fun _ _ _ => Iff.rfl)
    (andThen_keepsSameButIndices captureFrame_keepsSameButIndices (next_keepsSameButIndices fun _ _ h => h.enterSync _))
    (next_keepsSameButIndices fun _ _ h => h.missDelimiter)

theorem syncCompare_keepsSameButIndices : KeepsSameButIndices syncCompare := by
  intro s t s' h
  rw [syncCompare, syncCompare, h.syncState]
  cases s.syncState with
  | searchingPreamble => exact searchPreamble_keepsSameButIndices s t s' h
  | searchingDelimiter => exact searchDelimiter_keepsSameButIndices s t s' h

theorem acceptChip_keepsSameButIndices (chip : Bit) : KeepsSameButIndices (acceptChip chip) := by
  have hpush : KeepsSameButIndices (fun s => .next (pushSymbol chip s)) :=
    next_keepsSameButIndices fun _ _ h => h.pushSymbol chip
  refine ite_keepsSameButIndices (fun s t h => ?_) (andThen_keepsSameButIndices hpush syncCompare_keepsSameButIndices)
    hpush
  rw [(h.pushSymbol chip).buf]

theorem mzSym_keepsSameButIndices (chip : Bit) : KeepsSameButIndices (exec (.mzSym chip)) :=
  unlessHalted_keepsSameButIndices (acceptChip_keepsSameButIndices chip)

/-! ## Lane P -/

/-- An edge makes the same bits of two such states. Where their elapsed samples may differ the level is low and
nothing is accumulated, so the edge rises and appends nothing, and a discard has nothing to discard. -/
theorem State.SameButIndices.accAfterEdge_eq {s t : State} (h : s.SameButIndices t) {level : Bit}
    (hlevel : level ≠ s.pwLastLevel) :
    accAfterEdge level (s.pwIndex - s.pwLastTransitionIndex) s.pwAcc =
      accAfterEdge level (t.pwIndex - t.pwLastTransitionIndex) t.pwAcc := by
  rw [h.acc]
  rcases h.elapsed with helapsed | ⟨hlow, hacc⟩
  · rw [helapsed]
  · have hrise : level = true := Bool.eq_true_of_not_eq_false (hlow ▸ hlevel)
    simp only [accAfterEdge, hrise, hacc, ite_self, if_true]

/-- An unchanged level adds one elapsed sample to both states (R130). -/
theorem State.SameButIndices.hold {s t : State} (h : s.SameButIndices t) :
    State.SameButIndices { s with pwIndex := s.pwIndex + 1 } { t with pwIndex := t.pwIndex + 1 } := by
  obtain ⟨hs, ht⟩ := h.order
  exact { h with
    order := ⟨Nat.le_succ_of_le hs, Nat.le_succ_of_le ht⟩
    elapsed := h.elapsed.imp_left fun he => by rw [Nat.succ_sub hs, Nat.succ_sub ht, he] }

/-- After an edge one sample has elapsed in both states, whatever had before it (R121). -/
theorem State.SameButIndices.acceptLevel {s t : State} (h : s.SameButIndices t) (level : Bit) :
    (acceptLevel level s).SameButIndices (acceptLevel level t) := by
  by_cases hlevel : level = s.pwLastLevel
  · rw [acceptLevel_hold hlevel, acceptLevel_hold (hlevel.trans h.level.symm)]
    exact h.hold
  · rw [acceptLevel_edge hlevel rfl rfl, acceptLevel_edge (h.level ▸ hlevel) rfl (h.accAfterEdge_eq hlevel)]
    exact { h with
      level := rfl
      acc := rfl
      out := by rw [h.out]
      order := ⟨Nat.le_succ _, Nat.le_succ _⟩
      elapsed := .inl (by rw [Nat.add_sub_cancel_left, Nat.add_sub_cancel_left]) }

theorem pwSym_keepsSameButIndices (level : Bit) : KeepsSameButIndices (exec (.pwSym level)) :=
  unlessHalted_keepsSameButIndices (next_keepsSameButIndices fun _ _ h => h.acceptLevel level)

/-! ## RST, CANCEL and the step -/

/-- Reset leaves only the origin in the index: two reset states with one limit are the same but for it (R306). -/
theorem resetWith_sameButIndices {p q : Params} (h : q.sfdAttemptLimit = p.sfdAttemptLimit) :
    (State.resetWith p).SameButIndices (State.resetWith q) :=
  ⟨rfl, rfl, rfl, rfl, rfl, rfl, h, rfl, rfl, ⟨Nat.zero_le _, Nat.zero_le _⟩, .inr ⟨rfl, rfl⟩⟩

theorem State.SameButIndices.resetElements {s t : State} (h : s.SameButIndices t) :
    (resetElements s).SameButIndices (resetElements t) :=
  { resetWith_sameButIndices h.limit with inputs := h.inputs }

theorem State.SameButIndices.takeWord {s t : State} (h : s.SameButIndices t) :
    (takeWord s).SameButIndices (takeWord t) :=
  { h with inputs := congrArg List.tail h.inputs, out := rfl }

/-- The operations that an input word selects, one after another. -/
theorem runAll_decodeInputWord_keepsSameButIndices (iw : BitVec 6) :
    KeepsSameButIndices (runAll (decodeInputWord iw)) := by
  rcases decodeInputWord_shapes iw with hd | hd | hd | ⟨b, hd⟩ | ⟨c, hd⟩ | ⟨b, c, hd⟩ <;> rw [hd]
  · exact next_keepsSameButIndices fun _ _ h => h.resetElements -- RST
  · exact next_keepsSameButIndices fun _ _ h => { h with halted := rfl } -- CANCEL
  · exact next_keepsSameButIndices fun _ _ h => h -- IDLE
  · rw [funext (runAll_single (.pwSym b))]; exact pwSym_keepsSameButIndices b
  · rw [funext (runAll_single (.mzSym c))]; exact mzSym_keepsSameButIndices c
  · rw [funext (runAll_pair (.pwSym b) (.mzSym c))]
    exact andThen_keepsSameButIndices (pwSym_keepsSameButIndices b) (mzSym_keepsSameButIndices c)

/-- Two such states are presented the same word, and the operations it selects keep them such states. -/
theorem step_keepsSameButIndices : KeepsSameButIndices step := by
  intro s t s' h
  have hword : presentedWord t = presentedWord s := by rw [presentedWord, presentedWord, h.inputs]
  rw [step, step, hword]
  exact runAll_decodeInputWord_keepsSameButIndices _ _ _ s' h.takeWord

/-- Settles O58: the outputs are among what two such states agree in, and every step keeps two states such. -/
theorem outputsDoNotDependOnTheOrigin : Obligations.OutputsDoNotDependOnTheOrigin := by
  refine ⟨fun s t s' h hs => ?_, fun limit o1 o2 => resetWith_sameButIndices rfl⟩
  obtain ⟨t', ht', hst'⟩ := step_keepsSameButIndices s t s' h hs
  exact ⟨t', ht', hst', hst'.out⟩

end Machine

end Sys2Proof
